-- ==== Sys2Proof/Word.lean ====
section
/-! DEFINITION. The machine's bit vectors: bytes, sensor words and host registers (00_scope R8). -/

namespace Sys2Proof

/-- A byte on the wire or in the CRC engine (R8: 8 bits). -/
abbrev Byte := BitVec 8

/-- A data word, a raw word or a sensor opcode (R8: 16 bits). -/
abbrev Word := BitVec 16

/-- A host register or a command word (R8, R26: 32 bits). -/
abbrev Reg := BitVec 32

end Sys2Proof
end

