-- ==== Sys2Proof/Config.lean ====
section
/-! DEFINITION. What an implementation fixes (00_scope R6) and what stays free for good: the base address
(20_memory R60) and the transport's answers when no event carries one (20_memory R76). The parameters' values
for this block are in Machine/Params.lean. -/

namespace Sys2Proof

/-- The room the state keeps for DATA: R7's bound of `MAX_WORDS`, so that one state type serves every legal parameter.
A block has `Params.maxWords` words; the places past them are no words of it (log 10). -/
abbrev dataCapacity : Nat := 48

/-- The room the state keeps for FRAME: `FRAME_BYTES` at R7's bound (log 10). -/
abbrev frameCapacity : Nat := 2 + 3 * dataCapacity

/-- The room the state keeps for OUT: the eight channels of 42_measure R180, of which a block has `Params.channels`
(log 29). -/
abbrev channelCapacity : Nat := 8

/-- `ROUND_TIES`: the tie rule of display rounding (R6, R10, conflict C1). -/
inductive RoundTies where
  | even
  | halfUp
  deriving DecidableEq, Repr

/-- `CRC_IMPL`: how the engine computes `Crc8` (R6, 40_crc R123). -/
inductive CrcImpl where
  | table
  | poly
  deriving DecidableEq, Repr

/-- The block's parameters, which every definition that needs one takes as an argument (R6, R60). The types have room
for the one value that the rules give `REG_WIDTH`, `WORD_WIDTH` and `CHANNELS` (log 29). -/
structure Params where
  /-- `MAX_WORDS`, the largest word count of a WRITE or READ (R7: 16 to 48). -/
  maxWords : Nat
  /-- `CRC_TABLE`, the CRC ROM of 10_state R43: 256 bytes. -/
  crcTable : List Byte
  crcImpl : CrcImpl
  roundTies : RoundTies
  /-- `MIN_SETTLE_MS`, the floor of the settle time. -/
  minSettleMs : Nat
  /-- `POST_READ_SETTLE_MS`, the hold after a Read's response (conflict C3). -/
  postReadSettleMs : Nat
  busAddrReset : BitVec 7
  /-- `REG_WIDTH`, the width of every host register, and so of every legal host access (20_memory R61). -/
  regWidth : Nat
  /-- `WORD_WIDTH`, the width of a data word: the bits a DATA register has, and the wire bytes of a word. -/
  wordWidth : Nat
  /-- `CHANNELS`, the number of measurement channels: the OUT registers, and the words and lanes of a DECODE. -/
  channels : Nat
  /-- `BASE`, the address of offset 0x00 on the host's bus (R60). -/
  base : Nat
  deriving DecidableEq, Repr

/-- How many bytes the wire carries for a word, its CRC included: 3 for a word of 16 bits (20_memory R71, R72). -/
def Params.wireBytes (p : Params) : Nat := p.wordWidth / 8 + 1

/-- `FRAME_BYTES`, which is `2 + 3*MAX_WORDS` for words of 16 bits (R6, 10_state R41). -/
def Params.frameBytes (p : Params) : Nat := 2 + p.wireBytes * p.maxWords

/-- `BASE`, where the platform puts the register space (R60, U20: open). FREE VALUE, log 17. -/
opaque Config.base : Nat

/-- Whether the transport fails the `n`-th answer drawn, for a `BusWrite` (R76, U12). FREE VALUE, log 6. -/
opaque Config.busWriteFails : Nat → Bool

/-- Whether the transport fails the `n`-th answer drawn, for a `BusRead` (R76, U12). FREE VALUE, log 6. -/
opaque Config.busReadFails : Nat → Bool

/-- Byte `k` of the `n`-th answer drawn, for a `BusRead` (R76, U12). FREE VALUE, log 6. -/
opaque Config.busReadByte (n k : Nat) : Byte

end Sys2Proof
end

