-- ==== Sys2Proof/Syntax.lean ====
section
/-! DEFINITION. The block's commands: one constructor per row of spec/opcode_table.json (30_encoding R91 to R99). -/

namespace Sys2Proof

/-- The eight measurement channels, in the source's order, numbered 0 to 7 (42_measure R180). -/
inductive Channel where
  | pm1
  | pm2p5
  | pm4
  | pm10
  | rh
  | t
  | voc
  | nox
  deriving DecidableEq, Repr

/-- The accessor a decode or a rounding uses (30_encoding R95). -/
inductive RMode where
  | raw
  | metric
  | imperial
  deriving DecidableEq, Repr

/-- A command, with the fields its format carries (30_encoding R92 to R99). `nw` is the whole 6-bit NW field: a
value outside 1 to `MAX_WORDS` is a command the block completes with LENGTH_ERROR (R100), not an unknown word. -/
inductive Instr where
  /-- CRC8 (R92, R125). -/
  | crc8 (msb lsb : Byte)
  /-- CRCCHK (R93, R126). -/
  | crcchk (msb lsb crc : Byte)
  /-- EXEC (R94, R145). -/
  | exec (opc : Word)
  /-- WRITE (R94, R150). -/
  | write (opc : Word) (nw : BitVec 6)
  /-- READ (R94, R160). -/
  | read (opc : Word) (nw : BitVec 6)
  /-- SENT (R96, R200). -/
  | sent (raw : Word)
  /-- SCALE (R97, R201). -/
  | scale (ch : Channel) (raw : Word)
  /-- ROUND.METRIC (R98, R202). -/
  | roundMetric (ch : Channel) (raw : Word)
  /-- ROUND.IMPERIAL (R98, R202). -/
  | roundImperial (ch : Channel) (raw : Word)
  /-- DECODE.RAW (R99, R205). -/
  | decodeRaw
  /-- DECODE.METRIC (R99, R205). -/
  | decodeMetric
  /-- DECODE.IMPERIAL (R99, R205). -/
  | decodeImperial
  deriving DecidableEq, Repr

end Sys2Proof
end

