-- ==== Sys2Proof/Machine/State.lean ====
section
/-! DEFINITION. The block's state (10_state R21 to R44), the agents' pending steps, and the ways a step can stop. -/

namespace Sys2Proof.Machine

/-- PHASE (10_state R37). The values 5 to 7, which the block never enters, are not representable (log 24). -/
inductive Phase where
  | idle
  | tx
  | settle
  | rx
  | post
  deriving DecidableEq, Repr

/-- CODE, the completion code (10_state R38). The values 6 to 15 are never written and not representable (log 24). -/
inductive Code where
  | ok
  | crcMismatch
  | readUnavailable
  | transportError
  | illegalCmd
  | lengthError
  deriving DecidableEq, Repr

/-- The reasons of `raise ModelFault` (60_exceptions R230). -/
inductive FaultReason where
  | writeWhileBusy
  | unwrittenData
  | badWidth
  | misaligned
  | unmapped
  deriving DecidableEq, Repr

/-- The width of a host access in bits (20_memory R61); only 32 is legal. -/
inductive AccessWidth where
  | w8
  | w16
  | w32
  | w64
  deriving DecidableEq, Repr

/-- One agent's next step, with the input it brings (10_state R20, R22; 20_memory R76; 70_reset R255, R256). Log 4. -/
inductive Event where
  /-- The host reads at a byte offset of the register space. -/
  | hostRead (width : AccessWidth) (offset : BitVec 8)
  /-- The host writes at a byte offset of the register space. -/
  | hostWrite (width : AccessWidth) (offset : BitVec 8) (value : Reg)
  /-- The transport answers a `BusWrite`: `ok`, or `TransportFail` when false. -/
  | busWriteAnswer (ok : Bool)
  /-- The transport answers a `BusRead`: bytes, or `TransportFail` when none. -/
  | busReadAnswer (answer : Option (List Byte))
  /-- The environment ends a hold, `ms` milliseconds after the step that entered it. -/
  | settleElapsed (ms : Nat)
  deriving DecidableEq, Repr

/-- One bus transaction the block issued (20_memory R75). Log 18. -/
inductive BusTxn where
  | busWrite (addr : BitVec 7) (bytes : List Byte)
  | busRead (addr : BitVec 7) (count : Nat)
  deriving DecidableEq, Repr

/-- The whole state. Host-visible registers first, then the internal state, then the model's own fields. -/
structure State where
  /-- CMD, the last accepted command word (R28). -/
  cmd : Reg
  /-- STATUS.PHASE (R37); STATUS.BUSY is `phase ≠ idle` (R29). -/
  phase : Phase
  /-- STATUS.CODE (R38). -/
  code : Code
  /-- STATUS.MATCH (R39). -/
  matchBit : Bool
  /-- STATUS.UNKNOWN (R40). -/
  unknown : Bool
  /-- RESULT (R31). -/
  result : Reg
  /-- DEN (R32). -/
  den : Reg
  /-- SETTLE bits 15:0 (R35). -/
  settle : BitVec 16
  /-- BUSADDR bits 6:0 (R36). -/
  busAddr : BitVec 7
  /-- UNKMASK bits 7:0 (R34). -/
  unkMask : BitVec 8
  /-- OUT[0..7] (R33). -/
  out : Vector Reg channelCapacity
  /-- DATA[0..MAX_WORDS-1] bits 15:0 (R30), in the room of R7's bound: the block's words are the first
  `Params.maxWords` places, and no host access and no command reaches another (log 10). -/
  data : Vector Word dataCapacity
  /-- DATA_VALID[0..MAX_WORDS-1] (R30), in the same room. -/
  dataValid : Vector Bool dataCapacity
  /-- FRAME[0..FRAME_BYTES-1] (R41), in the room of R7's bound. -/
  frame : Vector Byte frameCapacity
  /-- L_OP (R42). -/
  lOp : BitVec 4
  /-- L_OPC (R42). -/
  lOpc : Word
  /-- L_NW (R42). -/
  lNw : BitVec 6
  /-- L_ADDR (R42). -/
  lAddr : BitVec 7
  /-- L_SETTLE, milliseconds (R42, C7). -/
  lSettle : BitVec 16
  /-- L_TXLEN (R42, C6). -/
  lTxLen : BitVec 8
  /-- L_CODE (R42). -/
  lCode : Code
  /-- FAULT, the model-only mark, with the reason last recorded (R44). No step reads it or clears it (log 7). -/
  fault : Option FaultReason
  /-- The model's own: the agents' steps still to come, next first. Log 4. -/
  events : List Event
  /-- The model's own: the bus transactions issued so far, in order (R265). Log 18. -/
  bus : List BusTxn
  /-- The model's own: the values host reads returned so far, in order. Log 18. -/
  observed : List Reg
  /-- The model's own: how many free transport answers have been drawn (R76). Log 6. -/
  draws : Nat
  deriving DecidableEq, Repr

/-- Where the machine stops with a fault: nowhere, so the type is empty. A failed command completes with a code
(60_exceptions R220, R222), and `raise ModelFault` is a next state with the FAULT mark set, from which the steps go on
(R44, R230, log 7). -/
inductive Fault where
  deriving DecidableEq, Repr

/-- Where the model refuses a step. -/
inductive Refusal where
  /-- Raised by `exec` for an instruction that has no meaning yet. Safe: no next state is claimed. No arm uses it. -/
  | notModelled (mnemonic : String)
  /-- Raised by `step` when the schedule names a transport or environment step that 70_reset R255 does not enable in
  this phase, so the schedule is no run. Safe: it excludes only what R255 excludes. Log 5. -/
  | stepNotEnabled
  /-- Raised by `step` when the environment would end a hold before its lower bound (R256). Safe: such a step is no
  legal step. Log 5. -/
  | holdNotElapsed
  /-- Raised by `step` when a `BusRead` is answered with another number of bytes than asked, which 20_memory R76 puts
  outside the interface. Safe: a claim says nothing of such a transport (U14). Log 5. -/
  | badReadLength
  deriving DecidableEq, Repr

/-- What a meaning or a step answers. -/
abbrev Result := Host.Outcome State Fault Refusal

/-- The state after reset of a block (70_reset R250). DATA, FRAME and the latches have no value there: zeros by DESIGN
CHOICE (logs 1, 2, 3). The schedule and the records start empty (logs 4, 6, 18). -/
def State.resetWith (p : Params) : State where
  cmd := 0
  phase := .idle
  code := .ok
  matchBit := false
  unknown := false
  result := 0
  den := 1
  settle := 20
  busAddr := p.busAddrReset
  unkMask := 0
  out := Vector.replicate channelCapacity 0
  data := Vector.replicate dataCapacity 0
  dataValid := Vector.replicate dataCapacity false
  frame := Vector.replicate frameCapacity 0
  lOp := 0
  lOpc := 0
  lNw := 0
  lAddr := 0
  lSettle := 0
  lTxLen := 0
  lCode := .ok
  fault := none
  events := []
  bus := []
  observed := []
  draws := 0

/-- The state after reset of the block of R6 (70_reset R250). -/
def State.reset : State := State.resetWith params

end Sys2Proof.Machine
end

