-- ==== Sys2Proof/Machine/Ops.lean ====
section
/-! DEFINITION. The named operations on the state that the commands and the agents' steps share: completing a command
(60_exceptions R221), raising a model fault (R230), accepting a command word (30_encoding R100), the DATA file
(10_state R30) and the frame buffer (R41). The block takes no trap and returns from none (R222, R226): `complete` and
`raiseFault` are all there is in the place of exception entry. -/

namespace Sys2Proof.Machine

/-- STATUS.BUSY, always `PHASE != IDLE` (R29). -/
def busy (s : State) : Bool := decide (s.phase ≠ .idle)

/-- `Complete(code)` (R221). -/
def complete (c : Code) (s : State) : State :=
  { s with code := c, phase := .idle }

/-- `raise ModelFault(reason)` (R230, 10_state R44): the mark is set and the reason recorded, in the place of an earlier
one (log 7); no register changes. -/
def raiseFault (r : FaultReason) (s : State) : State :=
  { s with fault := some r }

/-- The first lines of R100: CMD takes the word, and CODE, MATCH and UNKNOWN are cleared. -/
def acceptWord (c : Reg) (s : State) : State :=
  { s with cmd := c, code := .ok, matchBit := false, unknown := false }

/-- RESULT takes a byte, zero-extended (R125). -/
def setResultByte (b : Byte) (s : State) : State :=
  { s with result := b.setWidth 32 }

/-- RESULT takes a numerator mod 2^32, DEN its denominator and UNKNOWN the sentinel flag (R201, R202). -/
def setQuantity (unk : Bool) (num : Int) (den : Nat) (s : State) : State :=
  { s with unknown := unk, result := BitVec.ofInt 32 num, den := BitVec.ofNat 32 den }

/-- DATA[i] where it holds a value (R30); none where DATA_VALID[i] is false or i names no word. -/
def dataWord? (s : State) (i : Nat) : Option Word :=
  if h : i < dataCapacity then
    if s.dataValid[i] then some s.data[i] else none
  else none

/-- A row of places with place `i` written; past its end nothing is (log 27). -/
def putAt {α : Type} {n : Nat} (i : Nat) (x : α) (v : Vector α n) : Vector α n :=
  if h : i < n then v.set i x else v

/-- `DATA[i] <- w; DATA_VALID[i] <- true` (R65, R165). -/
def writeData (i : Nat) (w : Word) (s : State) : State :=
  { s with data := putAt i w s.data, dataValid := putAt i true s.dataValid }

/-- `DATA[i], DATA[i+1], ... <-` the words of the list, each made valid (R165). -/
def writeDataFrom (i : Nat) : List Word → State → State
  | [], s => s
  | w :: ws, s => writeDataFrom (i + 1) ws (writeData i w s)

/-- `FRAME[k], FRAME[k+1], ... <-` the bytes of the list (R141, R151, R161). -/
def putFrame (k : Nat) : List Byte → Vector Byte frameCapacity → Vector Byte frameCapacity
  | [], f => f
  | b :: bs, f => putFrame (k + 1) bs (putAt k b f)

/-- `[FRAME[0], ..., FRAME[L_TXLEN-1]]`, the frame the Tx step sends (R143). -/
def txFrame (s : State) : List Byte :=
  s.frame.toList.take s.lTxLen.toNat

/-- A transaction joins the record of what the block issued (R265). -/
def issue (t : BusTxn) (s : State) : State :=
  { s with bus := s.bus ++ [t] }

/-- A value joins the record of what host reads returned. -/
def observe (v : Reg) (s : State) : State :=
  { s with observed := s.observed ++ [v] }

/-- A free answer has been drawn (R76): the next one is another. -/
def countDraw (s : State) : State :=
  { s with draws := s.draws + 1 }

/-- The reset input (70_reset R250, R251): whatever the block was doing is abandoned with no code recorded, and a new
run starts from R250's state with the agents' steps of that run. Reset is not a step of a run. -/
def resetInput (p : Params) (_ : State) (events : List Event) : State :=
  { State.resetWith p with events := events }

end Sys2Proof.Machine
end

