-- ==== Sys2Proof/Machine/Flags.lean ====
section
/-! DEFINITION. STATUS as the word the host reads (10_state R29), and the flags of a decode (42_measure R205). -/

namespace Sys2Proof.Machine

/-- PHASE's encoding (R37). -/
def phaseBits : Phase → BitVec 3
  | .idle => 0
  | .tx => 1
  | .settle => 2
  | .rx => 3
  | .post => 4

/-- CODE's encoding (R38). -/
def codeBits : Code → BitVec 4
  | .ok => 0
  | .crcMismatch => 1
  | .readUnavailable => 2
  | .transportError => 3
  | .illegalCmd => 4
  | .lengthError => 5

/-- STATUS: reserved 31:10 read 0, then UNKNOWN, MATCH, CODE, PHASE, BUSY (R29). -/
def statusWord (s : State) : Reg :=
  0#22 ++ BitVec.ofBool s.unknown ++ BitVec.ofBool s.matchBit ++ codeBits s.code ++ phaseBits s.phase ++
    BitVec.ofBool (busy s)

/-- The mask `m` of R205: bit i is channel i's unknown flag. -/
def maskOf (unk : Channel → Bool) : BitVec 8 :=
  BitVec.ofBool (unk .nox) ++ BitVec.ofBool (unk .voc) ++ BitVec.ofBool (unk .t) ++ BitVec.ofBool (unk .rh) ++
    BitVec.ofBool (unk .pm10) ++ BitVec.ofBool (unk .pm4) ++ BitVec.ofBool (unk .pm2p5) ++ BitVec.ofBool (unk .pm1)

/-- STATUS.MATCH takes the outcome of a check (R126). -/
def setMatch (b : Bool) (s : State) : State := { s with matchBit := b }

/-- STATUS.UNKNOWN takes the outcome of a sentinel test (R200). -/
def setUnknown (b : Bool) (s : State) : State := { s with unknown := b }

end Sys2Proof.Machine
end

