-- ==== Sys2Proof/WellFormed.lean ====
section
/-! DEFINITION. Which commands the block runs rather than turns away for their word count (30_encoding R94, R100). -/

namespace Sys2Proof

/-- `1 <= NW <= MAX_WORDS` (R94). -/
def nwLegal (p : Params) (nw : BitVec 6) : Bool :=
  decide (1 ≤ nw.toNat) && decide (nw.toNat ≤ p.maxWords)

/-- A command the block runs: every operand of every other format is legal (R102), a WRITE or READ needs a legal
word count. An ill-formed command is still a command: it completes with LENGTH_ERROR. -/
def Instr.wellFormed (p : Params) : Instr → Bool
  | .crc8 _ _ => true
  | .crcchk _ _ _ => true
  | .exec _ => true
  | .write _ nw => nwLegal p nw
  | .read _ nw => nwLegal p nw
  | .sent _ => true
  | .scale _ _ => true
  | .roundMetric _ _ => true
  | .roundImperial _ _ => true
  | .decodeRaw => true
  | .decodeMetric => true
  | .decodeImperial => true

end Sys2Proof
end

