-- ==== Sys2Proof/Decode.lean ====
section
/-! DEFINITION. From a command word to a command and back (30_encoding R90 to R102). The decoder is total: a word
that is no command is rejected by the name of the check that refuses it, in the order of R100. -/

namespace Sys2Proof

/-- Why a command word is illegal, in the order the checks run (R100, R224). -/
inductive DecodeError where
  /-- OP is 0x0 or 0xA..0xF. -/
  | reservedOp
  /-- A reserved bit of the format is 1. -/
  | reservedBits
  /-- RMODE is 0b11, or 0b00 in a ROUND. -/
  | badRMode
  deriving DecidableEq, Repr

/-- OP, bits 3:0 (R91). -/
def opField (c : Reg) : BitVec 4 := c.extractLsb' 0 4
/-- MSB, bits 31:24 (R92, R93). -/
def msbField (c : Reg) : Byte := c.extractLsb' 24 8
/-- LSB, bits 23:16 (R92, R93). -/
def lsbField (c : Reg) : Byte := c.extractLsb' 16 8
/-- CRC, bits 15:8 (R93). -/
def crcField (c : Reg) : Byte := c.extractLsb' 8 8
/-- OPC, bits 31:16 (R94). -/
def opcField (c : Reg) : Word := c.extractLsb' 16 16
/-- NW, bits 15:10 (R94). -/
def nwField (c : Reg) : BitVec 6 := c.extractLsb' 10 6
/-- RAW, bits 31:16 (R96 to R98). -/
def rawField (c : Reg) : Word := c.extractLsb' 16 16
/-- RMODE, bits 9:8 (R95). -/
def rmodeField (c : Reg) : BitVec 2 := c.extractLsb' 8 2
/-- CH, bits 6:4 (R97, R98). -/
def chField (c : Reg) : BitVec 3 := c.extractLsb' 4 3

/-- The channel a CH field names (R97, R180). -/
def channelOf (b : BitVec 3) : Channel :=
  match b.toNat with
  | 0 => .pm1
  | 1 => .pm2p5
  | 2 => .pm4
  | 3 => .pm10
  | 4 => .rh
  | 5 => .t
  | 6 => .voc
  | _ => .nox

/-- A channel's number (R180). -/
def channelNumber : Channel → Nat
  | .pm1 => 0
  | .pm2p5 => 1
  | .pm4 => 2
  | .pm10 => 3
  | .rh => 4
  | .t => 5
  | .voc => 6
  | .nox => 7

/-- A channel's CH field (R97, R180). -/
def channelBits (ch : Channel) : BitVec 3 := BitVec.ofNat 3 (channelNumber ch)

/-- RES(op), the reserved-bit mask of the op's format (R100). -/
def reservedMask (op : BitVec 4) : Reg :=
  match op.toNat with
  | 1 | 3 | 6 => 0x0000FFF0
  | 2 => 0x000000F0
  | 4 | 5 => 0x000003F0
  | 7 => 0x0000FF80
  | 8 => 0x0000FC80
  | 9 => 0xFFFFFCF0
  | _ => 0

/-- The fields of a word whose OP and reserved bits have passed, and the RMODE check (R100, R102). -/
def decodeFields (c : Reg) : Except DecodeError Instr :=
  match (opField c).toNat with
  | 1 => .ok (.crc8 (msbField c) (lsbField c))
  | 2 => .ok (.crcchk (msbField c) (lsbField c) (crcField c))
  | 3 => .ok (.exec (opcField c))
  | 4 => .ok (.write (opcField c) (nwField c))
  | 5 => .ok (.read (opcField c) (nwField c))
  | 6 => .ok (.sent (rawField c))
  | 7 => .ok (.scale (channelOf (chField c)) (rawField c))
  | 8 =>
    match (rmodeField c).toNat with
    | 1 => .ok (.roundMetric (channelOf (chField c)) (rawField c))
    | 2 => .ok (.roundImperial (channelOf (chField c)) (rawField c))
    | _ => .error .badRMode
  | 9 =>
    match (rmodeField c).toNat with
    | 0 => .ok .decodeRaw
    | 1 => .ok .decodeMetric
    | 2 => .ok .decodeImperial
    | _ => .error .badRMode
  | _ => .error .reservedOp

/-- Decoding a command word: reserved OP, then reserved bits, then RMODE (R100, R101). The word count of a WRITE or
READ is not a decoding matter: R100 tests it after these, and their meanings complete with LENGTH_ERROR. -/
def decode (c : Reg) : Except DecodeError Instr :=
  if (opField c).toNat = 0 ∨ 10 ≤ (opField c).toNat then .error .reservedOp
  else if c &&& reservedMask (opField c) ≠ 0 then .error .reservedBits
  else decodeFields c

/-- The command word of a command, written from R92 to R99. -/
def encode : Instr → Reg
  | .crc8 msb lsb => msb ++ lsb ++ 0#12 ++ 1#4
  | .crcchk msb lsb crc => msb ++ lsb ++ crc ++ 0#4 ++ 2#4
  | .exec opc => opc ++ 0#12 ++ 3#4
  | .write opc nw => opc ++ nw ++ 0#6 ++ 4#4
  | .read opc nw => opc ++ nw ++ 0#6 ++ 5#4
  | .sent raw => raw ++ 0#12 ++ 6#4
  | .scale ch raw => raw ++ 0#9 ++ channelBits ch ++ 7#4
  | .roundMetric ch raw => raw ++ 0#6 ++ 1#2 ++ 0#1 ++ channelBits ch ++ 8#4
  | .roundImperial ch raw => raw ++ 0#6 ++ 2#2 ++ 0#1 ++ channelBits ch ++ 8#4
  | .decodeRaw => 0#22 ++ 0#2 ++ 0#4 ++ 9#4
  | .decodeMetric => 0#22 ++ 1#2 ++ 0#4 ++ 9#4
  | .decodeImperial => 0#22 ++ 2#2 ++ 0#4 ++ 9#4

/-- The command read from a row's word, bit `i` of `w` being bit `i` of the command word (R90: 32 bits, one word). -/
def decodeTableWord (nbits w : Nat) : Option Instr :=
  match decode (BitVec.ofNat 32 (w % 2 ^ nbits)) with
  | .ok i => some i
  | .error _ => none

end Sys2Proof
end

