-- ==== Sys2Proof/Machine/Operands.lean ====
section
/-! DEFINITION. Reading operands: words as integers (00_scope R9), the channel table (42_measure R180 to R182), the
sentinel rule (R183) and the byte order and layout of the wire (20_memory R70 to R73). -/

namespace Sys2Proof.Machine

/-- `u16(w)` (R9). -/
def u16 (w : Word) : Int := w.toNat

/-- `s16(w)` (R9; two's complement, G5, log 16). -/
def s16 (w : Word) : Int :=
  if w.getLsbD 15 then (w.toNat : Int) - 65536 else w.toNat

/-- A word's first byte on the wire, `w[15:8]` (R70). -/
def msbOf (w : Word) : Byte := w.extractLsb' 8 8

/-- A word's second byte on the wire, `w[7:0]` (R70). -/
def lsbOf (w : Word) : Byte := w.extractLsb' 0 8

/-- `{msb, lsb}` (R8, R73). -/
def wordOf (msb lsb : Byte) : Word := msb ++ lsb

/-- The opcode bytes of a command frame, big-endian (R71, R141). -/
def opcodeBytes (opc : Word) : List Byte := [msbOf opc, lsbOf opc]

/-- A response frame cut into its triples `[r[3i], r[3i+1], r[3i+2]]` (R71, R73). -/
def triples : List Byte → List (Byte × Byte × Byte)
  | a :: b :: c :: rest => (a, b, c) :: triples rest
  | _ => []

/-- `IsSentinel(w)` (R183): on the pattern, whatever the channel. -/
def isSentinel (w : Word) : Bool := w == 0x7FFF || w == 0xFFFF

/-- Channels 0 to 3 are read unsigned, 4 to 7 signed (R180, R181). -/
def channelSigned : Channel → Bool
  | .pm1 | .pm2p5 | .pm4 | .pm10 => false
  | .rh | .t | .voc | .nox => true

/-- The integer value `x` of a raw word on a channel (R181). -/
def channelValue (ch : Channel) (w : Word) : Int :=
  if channelSigned ch then s16 w else u16 w

/-- The scale factor `S(i)` (R180). -/
def scaleOf : Channel → Nat
  | .pm1 | .pm2p5 | .pm4 | .pm10 => 10
  | .rh => 100
  | .t => 200
  | .voc | .nox => 10

/-- `DEN(i, mode)` (R182). -/
def denOf (ch : Channel) : RMode → Nat
  | .raw => scaleOf ch
  | .metric => match ch with
    | .t => 2
    | .pm1 | .pm2p5 | .pm4 | .pm10 | .rh | .voc | .nox => 1
  | .imperial => 1

/-- A channel's OUT register (10_state R33). -/
def laneOf (ch : Channel) : Fin channelCapacity := ⟨channelNumber ch, by cases ch <;> decide⟩

/-- The DATA word DECODE reads for a channel: DATA[i] for channel i (R205, decision D9). -/
def slotOf (ch : Channel) : Fin dataCapacity := ⟨channelNumber ch, by cases ch <;> decide⟩

end Sys2Proof.Machine
end

