-- ==== Sys2Proof/Machine/Crc.lean ====
section
/-! DEFINITION. The CRC-8 engine (40_crc R120 to R128): the function, its two implementations, and CRC8 and CRCCHK. -/

namespace Sys2Proof.Machine

/-- One round of `Shift8` (R121). -/
def shiftOnce (c : Byte) : Byte :=
  if c.getLsbD 7 then (c <<< 1) ^^^ 0x31 else c <<< 1

/-- `Shift8` (R121): eight rounds. -/
def shift8 (c : Byte) : Byte :=
  shiftOnce (shiftOnce (shiftOnce (shiftOnce (shiftOnce (shiftOnce (shiftOnce (shiftOnce c)))))))

/-- `CRC_TABLE[i]` of a ROM (10_state R43). -/
def romByte (rom : List Byte) (i : Byte) : Byte := rom.getD i.toNat 0

/-- `Crc8` by two look-ups (R120, R122). -/
def crcTableCore (rom : List Byte) (msb lsb : Byte) : Byte :=
  romByte rom (romByte rom (0xFF ^^^ msb) ^^^ lsb)

/-- The polynomial core run over bytes from a start value (R123, R124 (b)). -/
def crcPolyRun : Byte → List Byte → Byte
  | c, [] => c
  | c, b :: bs => crcPolyRun (shift8 (c ^^^ b)) bs

/-- `Crc8_poly` (R123). -/
def crcPolyCore (msb lsb : Byte) : Byte := crcPolyRun 0xFF [msb, lsb]

/-- `Crc8` of a block with a given `CRC_IMPL` and `CRC_TABLE` (R122, R123). -/
def crc8With (impl : CrcImpl) (rom : List Byte) (msb lsb : Byte) : Byte :=
  match impl with
  | .table => crcTableCore rom msb lsb
  | .poly => crcPolyCore msb lsb

/-- `Crc8` (R11, R122), with the block's `CRC_IMPL` and `CRC_TABLE`. -/
def crc8 (p : Params) (msb lsb : Byte) : Byte := crc8With p.crcImpl p.crcTable msb lsb

/-- `WireWord(w)` (20_memory R72). -/
def wireWord (p : Params) (w : Word) : List Byte := [msbOf w, lsbOf w, crc8 p (msbOf w) (lsbOf w)]

/-- The rule of CRC8 (R125). -/
def runCrc8 (p : Params) (msb lsb : Byte) (s : State) : Result :=
  .next (complete .ok (setResultByte (crc8 p msb lsb) s))

/-- The rule of CRCCHK (R126): a mismatch is a result, not a CRC_MISMATCH completion. -/
def runCrcchk (p : Params) (msb lsb crc : Byte) (s : State) : Result :=
  .next (complete .ok (setMatch (crc8 p msb lsb == crc) (setResultByte (crc8 p msb lsb) s)))

/-- CRC8 (R125). -/
def execCrc8 (msb lsb : Byte) (s : State) : Result := runCrc8 params msb lsb s

/-- CRCCHK (R126). -/
def execCrcchk (msb lsb crc : Byte) (s : State) : Result := runCrcchk params msb lsb crc s

end Sys2Proof.Machine
end

