-- ==== Sys2Proof/Machine/Codec.lean ====
section
/-! DEFINITION. The command codec (41_codec R140 to R170): the accept steps of EXEC, WRITE and READ, and the steps of
the transport (Tx, Rx) and of the environment (Settle, Post) that carry a command to its end. -/

namespace Sys2Proof.Machine

/-- The OP values the latch L_OP can take (30_encoding R91). -/
def opExec : BitVec 4 := 3
def opWrite : BitVec 4 := 4
def opRead : BitVec 4 := 5

/-- `max(SETTLE, MIN_SETTLE_MS)` as the 16-bit latch holds it (R141, 10_state R42). -/
def effectiveSettle (minMs : Nat) (settle : BitVec 16) : BitVec 16 :=
  if settle.toNat < minMs then BitVec.ofNat 16 minMs else settle

/-- The accept step's common part (R141). -/
def loadLatches (p : Params) (op : BitVec 4) (opc : Word) (nw : BitVec 6) (s : State) : State :=
  { s with
    lOp := op
    lOpc := opc
    lNw := nw
    lAddr := s.busAddr
    lSettle := effectiveSettle p.minSettleMs s.settle
    frame := putFrame 0 (opcodeBytes opc) s.frame }

/-- The end of every accept step: the frame's length is latched and the frame waits for the transport
(`L_TXLEN <- n; PHASE <- TX`, R145, R150, R160). -/
def startTx (len : Nat) (s : State) : State :=
  { s with lTxLen := BitVec.ofNat 8 len, phase := .tx }

/-- The frame build's loop (R151) over word indices, from the frame it has so far: the frame it leaves, and false
where it met a word that holds no value, with the words before that one already placed (log 21). -/
def buildWords (p : Params) (s : State) : List Nat → Vector Byte frameCapacity → Vector Byte frameCapacity × Bool
  | [], f => (f, true)
  | i :: is, f =>
    match dataWord? s i with
    | none => (f, false)
    | some w => buildWords p s is (putFrame (2 + p.wireBytes * i) (wireWord p w) f)

/-- The rule of EXEC: its accept step (R145). -/
def runExec (p : Params) (opc : Word) (s : State) : Result :=
  .next (startTx 2 (loadLatches p opExec opc 0 s))

/-- The rule of WRITE: its accept step (R100's length check, R150, R151). -/
def runWrite (p : Params) (opc : Word) (nw : BitVec 6) (s : State) : Result :=
  if nwLegal p nw then
    let s1 := loadLatches p opWrite opc nw s
    let built := buildWords p s1 (List.range nw.toNat) s1.frame
    let s2 := { s1 with frame := built.1 }
    if built.2 then .next (startTx (2 + p.wireBytes * nw.toNat) s2)
    else .next (raiseFault .unwrittenData s2)
  else .next (complete .lengthError s)

/-- The rule of READ: its accept step (R100's length check, R160). -/
def runRead (p : Params) (opc : Word) (nw : BitVec 6) (s : State) : Result :=
  if nwLegal p nw then .next (startTx 2 (loadLatches p opRead opc nw s))
  else .next (complete .lengthError s)

/-- EXEC (R145). -/
def execExec (opc : Word) (s : State) : Result := runExec params opc s

/-- WRITE (R100, R150, R151). -/
def execWrite (opc : Word) (nw : BitVec 6) (s : State) : Result := runWrite params opc nw s

/-- READ (R100, R160). -/
def execRead (opc : Word) (nw : BitVec 6) (s : State) : Result := runRead params opc nw s

/-- The Tx step with the transport's answer (R143): the whole frame is one transaction. -/
def txStep (ok : Bool) (s : State) : Result :=
  let s1 := issue (.busWrite s.lAddr (txFrame s)) s
  if ok then .next { s1 with phase := .settle }
  else .next (complete .transportError s1)

/-- The Settle step (R144). -/
def settleStep (s : State) : Result :=
  if s.lOp = opRead then .next { s with phase := .rx }
  else .next (complete .ok s)

/-- The all-ones check (R162). -/
def allOnes (r : List Byte) : Bool := r.all (fun b => b == 0xFF)

/-- A triple's CRC byte is the CRC of its data bytes (R73, R163). -/
def tripleValid (p : Params) (t : Byte × Byte × Byte) : Bool := crc8 p t.1 t.2.1 == t.2.2

/-- `Validate(r, n)` on the `3n` bytes of a response frame (R166): the all-ones check first. -/
def validate (p : Params) (r : List Byte) : Code :=
  if allOnes r then .readUnavailable
  else if (triples r).all (tripleValid p) then .ok
  else .crcMismatch

/-- The words of a response frame, big-endian, their CRC bytes dropped (R165). -/
def frameWords (r : List Byte) : List Word := (triples r).map (fun t => wordOf t.1 t.2.1)

/-- `Commit(r, n)` (R165). -/
def commit (r : List Byte) (s : State) : State := writeDataFrom 0 (frameWords r) s

/-- The number of bytes a READ asks for, `3 * L_NW` for words of 16 bits (R161). -/
def rxCount (p : Params) (s : State) : Nat := p.wireBytes * s.lNw.toNat

/-- What the Rx step does with the bytes it received (R161). -/
def receive (p : Params) (r : List Byte) (s : State) : State :=
  let s1 := { s with frame := putFrame 0 r s.frame, lCode := validate p r }
  let s2 := if validate p r = .ok then commit r s1 else s1
  if 0 < p.postReadSettleMs then { s2 with phase := .post } else complete (validate p r) s2

/-- The Rx step with the transport's answer (R161). An answer of another length than asked is not admitted (R76). -/
def rxStep (p : Params) (answer : Option (List Byte)) (s : State) : Result :=
  let s1 := issue (.busRead s.lAddr (rxCount p s)) s
  match answer with
  | none => .next (complete .transportError s1)
  | some r => if r.length = rxCount p s then .next (receive p r s1) else .refused .badReadLength

/-- The Post step (R168). -/
def postStep (s : State) : Result := .next (complete s.lCode s)

/-- An environment step that ends a hold of `bound` milliseconds after `ms` of them (70_reset R256). -/
def endHold (bound ms : Nat) (r : Result) : Result :=
  if bound ≤ ms then r else .refused .holdNotElapsed

/-- The `n`-th free answer to a `BusRead` of `count` bytes (R76). -/
def drawRead (n count : Nat) : Option (List Byte) :=
  if Config.busReadFails n then none else some ((List.range count).map (Config.busReadByte n))

/-- The one block-side step enabled in a phase, with the transport's answer drawn freely (R76, R255, R256): what a
state does when no agent step is scheduled. An idle block does nothing, its host having no action left (R265). -/
def freeStep (p : Params) (s : State) : Result :=
  match s.phase with
  | .idle => .next s
  | .tx => txStep (!Config.busWriteFails s.draws) (countDraw s)
  | .settle => settleStep s
  | .rx => rxStep p (drawRead s.draws (rxCount p s)) (countDraw s)
  | .post => postStep s

end Sys2Proof.Machine
end

