-- ==== Sys2Proof/Machine/Measure.lean ====
section
/-! DEFINITION. The measurement decoder (42_measure R180 to R206): scaling, display rounding, and SENT, SCALE, ROUND
and DECODE. Every rational of the spec is a quotient of integers here, rounded exactly. -/

namespace Sys2Proof.Machine

/-- `RoundTies(p / q)` for `q > 0` (00_scope R10): the nearest integer, a tie to the even one or toward plus infinity. -/
def roundTies (ties : RoundTies) (p : Int) (q : Nat) : Int :=
  let f := p / (q : Int)
  let twice := 2 * (p % (q : Int))
  if twice < q then f
  else if (q : Int) < twice then f + 1
  else match ties with
    | .halfUp => f + 1
    | .even => if f % 2 = 0 then f else f + 1

/-- `RoundToNearest(x / s, n) = RoundTies((x / s) / n) * n` for a whole step `n` (R10, R192). -/
def roundToNearest (ties : RoundTies) (x : Int) (s n : Nat) : Int := roundTies ties x (s * n) * n

/-- The display value over `DEN(i, METRIC)` (R186 to R189, R191, R194). The comparison of R186 is on the unrounded
value, `x < 1000`. Temperature counts half degrees: `RoundTies((x / 200) / (1/2))`, that is `RoundTies(x / 100)`. -/
def displayMetric (ties : RoundTies) (ch : Channel) (x : Int) : Int :=
  match ch with
  | .pm1 | .pm2p5 => if x < 1000 then roundToNearest ties x 10 5 else roundToNearest ties x 10 10
  | .pm4 | .pm10 => roundToNearest ties x 10 25
  | .rh => roundToNearest ties x 100 5
  | .t => roundTies ties x 100
  | .voc | .nox => roundToNearest ties x 10 1

/-- The display value over `DEN(i, IMPERIAL)` (R190): temperature is `RoundTies((x / 200) * 9/5 + 32)`, that is
`RoundTies((9x + 32000) / 1000)`; every other channel rounds as in METRIC. -/
def displayImperial (ties : RoundTies) (ch : Channel) (x : Int) : Int :=
  match ch with
  | .t => roundTies ties (9 * x + 32000) 1000
  | .pm1 | .pm2p5 | .pm4 | .pm10 | .rh | .voc | .nox => displayMetric ties ch x

/-- The numerator of a numeric channel value (R194). -/
def numeratorOf (ties : RoundTies) (ch : Channel) (x : Int) : RMode → Int
  | .raw => x
  | .metric => displayMetric ties ch x
  | .imperial => displayImperial ties ch x

/-- `Chan(i, w, m)` (R194): the unknown flag and the numerator. -/
def chan (ties : RoundTies) (ch : Channel) (w : Word) (m : RMode) : Bool × Int :=
  if isSentinel w then (true, 0) else (false, numeratorOf ties ch (channelValue ch w) m)

/-- What SCALE and ROUND share (R201, R202). -/
def convert (p : Params) (ch : Channel) (raw : Word) (m : RMode) (s : State) : State :=
  complete .ok (setQuantity (chan p.roundTies ch raw m).1 (chan p.roundTies ch raw m).2 (denOf ch m) s)

/-- SENT (R200), which no parameter enters. -/
def execSent (raw : Word) (s : State) : Result := .next (complete .ok (setUnknown (isSentinel raw) s))

/-- SCALE (R201). -/
def execScale (ch : Channel) (raw : Word) (s : State) : Result := .next (convert params ch raw .raw s)

/-- ROUND.METRIC (R202). -/
def execRoundMetric (ch : Channel) (raw : Word) (s : State) : Result := .next (convert params ch raw .metric s)

/-- ROUND.IMPERIAL (R202). -/
def execRoundImperial (ch : Channel) (raw : Word) (s : State) : Result := .next (convert params ch raw .imperial s)

/-- The block has the channel: one of the first `CHANNELS` (R6, R180). -/
def hasChannel (p : Params) (ch : Channel) : Bool := decide (channelNumber ch < p.channels)

/-- Every one of DATA[0..7] holds a value, for `CHANNELS` of 8 (R205). -/
def readingValid (p : Params) (s : State) : Bool :=
  (List.range p.channels).all (fun i => (dataWord? s i).isSome)

/-- `Chan(i, DATA[i], RMODE)` (R205). -/
def lane (p : Params) (s : State) (m : RMode) (ch : Channel) : Bool × Int :=
  chan p.roundTies ch (s.data.get (slotOf ch)) m

/-- OUT[i] after a decode (R205), in its room kept where the block has no channel i. -/
def laneOut (p : Params) (s : State) (m : RMode) (ch : Channel) : Reg :=
  if hasChannel p ch then BitVec.ofInt 32 (lane p s m ch).2 else s.out.get (laneOf ch)

/-- Bit i of a decode's mask (R205). -/
def laneUnknown (p : Params) (s : State) (m : RMode) (ch : Channel) : Bool := hasChannel p ch && (lane p s m ch).1

/-- What a decode writes when its words hold values (R205). -/
def decodeReading (p : Params) (m : RMode) (s : State) : State :=
  let mask := maskOf (laneUnknown p s m)
  { s with
    out := #v[laneOut p s m .pm1, laneOut p s m .pm2p5, laneOut p s m .pm4, laneOut p s m .pm10,
      laneOut p s m .rh, laneOut p s m .t, laneOut p s m .voc, laneOut p s m .nox]
    unkMask := mask
    unknown := mask != 0 }

/-- The rule of DECODE (R205): all eight words must hold values before any is decoded. -/
def runDecode (p : Params) (m : RMode) (s : State) : Result :=
  if readingValid p s then .next (complete .ok (decodeReading p m s))
  else .next (raiseFault .unwrittenData s)

/-- DECODE.RAW (R205). -/
def execDecodeRaw (s : State) : Result := runDecode params .raw s

/-- DECODE.METRIC (R205). -/
def execDecodeMetric (s : State) : Result := runDecode params .metric s

/-- DECODE.IMPERIAL (R205). -/
def execDecodeImperial (s : State) : Result := runDecode params .imperial s

end Sys2Proof.Machine
end

