-- ==== Sys2Proof/Machine/Dispatch.lean ====
section
/-! DEFINITION. Each command's meaning in the block of R6: the rule of its op, run after the acceptance of 30_encoding
R100. -/

namespace Sys2Proof.Machine

def exec (i : Instr) (s : State) : Host.Outcome State Fault Refusal :=
  match i with
  | .crc8 msb lsb => Sys2Proof.Machine.execCrc8 msb lsb s
  | .crcchk msb lsb crc => Sys2Proof.Machine.execCrcchk msb lsb crc s
  | .exec opc => Sys2Proof.Machine.execExec opc s
  | .write opc nw => Sys2Proof.Machine.execWrite opc nw s
  | .read opc nw => Sys2Proof.Machine.execRead opc nw s
  | .sent raw => Sys2Proof.Machine.execSent raw s
  | .scale ch raw => Sys2Proof.Machine.execScale ch raw s
  | .roundMetric ch raw => Sys2Proof.Machine.execRoundMetric ch raw s
  | .roundImperial ch raw => Sys2Proof.Machine.execRoundImperial ch raw s
  | .decodeRaw => Sys2Proof.Machine.execDecodeRaw s
  | .decodeMetric => Sys2Proof.Machine.execDecodeMetric s
  | .decodeImperial => Sys2Proof.Machine.execDecodeImperial s

end Sys2Proof.Machine
end

