-- ==== Sys2Proof/Machine/Run.lean ====
section
/-! DEFINITION. The rule of each command's op, with the block's parameters as an argument (00_scope R6). `exec` in
Dispatch.lean is this for the block of R6: Laws/Step.lean proves `run params i s = exec i s`. -/

namespace Sys2Proof.Machine

/-- The last line of R100: the rule of the decoded command's op, its length check included (log 23). -/
def run (p : Params) (i : Instr) (s : State) : Result :=
  match i with
  | .crc8 msb lsb => runCrc8 p msb lsb s
  | .crcchk msb lsb crc => runCrcchk p msb lsb crc s
  | .exec opc => runExec p opc s
  | .write opc nw => runWrite p opc nw s
  | .read opc nw => runRead p opc nw s
  | .sent raw => execSent raw s
  | .scale ch raw => .next (convert p ch raw .raw s)
  | .roundMetric ch raw => .next (convert p ch raw .metric s)
  | .roundImperial ch raw => .next (convert p ch raw .imperial s)
  | .decodeRaw => runDecode p .raw s
  | .decodeMetric => runDecode p .metric s
  | .decodeImperial => runDecode p .imperial s

end Sys2Proof.Machine
end

