-- ==== Sys2Proof/Machine/HostPort.lean ====
section
/-! DEFINITION. The host's side of the block: the register map (10_state R25 to R36), the host's reads and writes
(20_memory R60 to R68), and one scheduled step of any agent (70_reset R255), for any parameters (00_scope R6). -/

namespace Sys2Proof.Machine

/-- The host registers (R27). DATA has the places of R7's bound, of which a block has the first `MAX_WORDS`. -/
inductive HostReg where
  | cmd
  | status
  | result
  | den
  | settle
  | busAddr
  | unkMask
  | out (i : Fin channelCapacity)
  | data (i : Fin dataCapacity)
  deriving DecidableEq, Repr

/-- A register's access class (R25). -/
inductive Access where
  | rw
  | ro
  | cmd
  deriving DecidableEq, Repr

/-- The access column of R27. -/
def accessOf : HostReg → Access
  | .cmd => .cmd
  | .status => .ro
  | .result => .ro
  | .den => .ro
  | .settle => .rw
  | .busAddr => .rw
  | .unkMask => .ro
  | .out _ => .ro
  | .data _ => .rw

/-- A register's byte offset (R27, R7). -/
def offsetOf : HostReg → BitVec 8
  | .cmd => 0x00
  | .status => 0x04
  | .result => 0x08
  | .den => 0x0C
  | .settle => 0x10
  | .busAddr => 0x14
  | .unkMask => 0x18
  | .out i => BitVec.ofNat 8 (0x20 + 4 * i.val)
  | .data i => BitVec.ofNat 8 (0x40 + 4 * i.val)

/-- A register's address on the host's bus (R60). -/
def hostAddress (p : Params) (r : HostReg) : Nat := p.base + (offsetOf r).toNat

/-- The register at a byte offset, or why there is none: MISALIGNED (R62), or UNMAPPED for an aligned offset that names
no register (R63): 0x1C, and 0x40 + 4*MAX_WORDS to 0xFC (R7), which is 0x80 to 0xFC for 16 words. OUT has `CHANNELS`
registers. -/
def regAt (p : Params) (off : BitVec 8) : Except FaultReason HostReg :=
  if off.toNat % 4 ≠ 0 then .error .misaligned
  else if h : 8 ≤ off.toNat / 4 ∧ off.toNat / 4 < 8 + min p.channels channelCapacity then
    .ok (.out ⟨off.toNat / 4 - 8, by omega⟩)
  else if h : 16 ≤ off.toNat / 4 ∧ off.toNat / 4 < 16 + p.maxWords then
    .ok (.data ⟨off.toNat / 4 - 16, by have := off.isLt; unfold dataCapacity; omega⟩)
  else match off.toNat / 4 with
    | 0 => .ok .cmd
    | 1 => .ok .status
    | 2 => .ok .result
    | 3 => .ok .den
    | 4 => .ok .settle
    | 5 => .ok .busAddr
    | 6 => .ok .unkMask
    | _ => .error .unmapped

/-- The bits an access moves (R61). -/
def widthBits : AccessWidth → Nat
  | .w8 => 8
  | .w16 => 16
  | .w32 => 32
  | .w64 => 64

/-- The register a legal access names: its width first, which is that of a whole register (R61), then its alignment and
its offset (log 8). -/
def accessReg (p : Params) (w : AccessWidth) (off : BitVec 8) : Except FaultReason HostReg :=
  if widthBits w = p.regWidth then regAt p off else .error .badWidth

/-- A register's value as the host reads it, reserved bits 0 (R26); a DATA word that holds no value has none (R68). -/
def readReg (r : HostReg) (s : State) : Except FaultReason Reg :=
  match r with
  | .cmd => .ok s.cmd
  | .status => .ok (statusWord s)
  | .result => .ok s.result
  | .den => .ok s.den
  | .settle => .ok (s.settle.setWidth 32)
  | .busAddr => .ok (s.busAddr.setWidth 32)
  | .unkMask => .ok (s.unkMask.setWidth 32)
  | .out i => .ok (s.out.get i)
  | .data i => match dataWord? s i.val with
    | some w => .ok (w.setWidth 32)
    | none => .error .unwrittenData

/-- A write to a register of class RW sets its named bits (R26, R65), in DATA those of a word; one of class RO is ignored
(R25). CMD's write is `commandWrite`. -/
def writeReg (p : Params) (r : HostReg) (v : Reg) (s : State) : State :=
  match r with
  | .settle => { s with settle := v.setWidth 16 }
  | .busAddr => { s with busAddr := v.setWidth 7 }
  | .data i => writeData i.val ((v.setWidth p.wordWidth).setWidth 16) s
  | .cmd | .status | .result | .den | .unkMask | .out _ => s

/-- A CMD write accepted by an idle block: the whole of R100. -/
def commandWrite (p : Params) (c : Reg) (s : State) : Result :=
  match decode c with
  | .ok i => run p i (acceptWord c s)
  | .error _ => .next (complete .illegalCmd (acceptWord c s))

/-- A host write (R65): an illegal access faults (R61 to R63), one to CMD, SETTLE, BUSADDR or DATA while BUSY is the
second call in flight (R67, 60_exceptions R231), one to a register of class RO is ignored at any time. -/
def hostWrite (p : Params) (w : AccessWidth) (off : BitVec 8) (v : Reg) (s : State) : Result :=
  match accessReg p w off with
  | .error r => .next (raiseFault r s)
  | .ok reg =>
    match accessOf reg with
    | .ro => .next s
    | .rw => if busy s then .next (raiseFault .writeWhileBusy s) else .next (writeReg p reg v s)
    | .cmd => if busy s then .next (raiseFault .writeWhileBusy s) else commandWrite p v s

/-- The value a host read returns, or why it is no legal read (R61 to R63, R68). -/
def hostValue (p : Params) (w : AccessWidth) (off : BitVec 8) (s : State) : Except FaultReason Reg :=
  match accessReg p w off with
  | .error r => .error r
  | .ok reg => readReg reg s

/-- A host read (R65): no side effect on the block; the value joins the record of what the host has seen. -/
def hostRead (p : Params) (w : AccessWidth) (off : BitVec 8) (s : State) : Result :=
  match hostValue p w off s with
  | .error r => .next (raiseFault r s)
  | .ok v => .next (observe v s)

/-- One agent's scheduled step, where R255 enables it. -/
def takeEvent (p : Params) (e : Event) (s : State) : Result :=
  match e with
  | .hostRead w off => hostRead p w off s
  | .hostWrite w off v => hostWrite p w off v s
  | .busWriteAnswer ok => match s.phase with
    | .tx => txStep ok s
    | .idle | .settle | .rx | .post => .refused .stepNotEnabled
  | .busReadAnswer a => match s.phase with
    | .rx => rxStep p a s
    | .idle | .tx | .settle | .post => .refused .stepNotEnabled
  | .settleElapsed ms => match s.phase with
    | .settle => endHold s.lSettle.toNat ms (settleStep s)
    | .post => endHold p.postReadSettleMs ms (postStep s)
    | .idle | .tx | .rx => .refused .stepNotEnabled

/-- The next step of the system: the scheduled one, or with none scheduled the enabled one (R255, R256). It does not
ask for the FAULT mark, which the hardware has not (R44): a marked state is never final, but it steps (log 7). -/
def stepWith (p : Params) (s : State) : Result :=
  match s.events with
  | e :: es => takeEvent p e { s with events := es }
  | [] => freeStep p s

/-- The host's write of a command word to CMD, next in the schedule of an idle block. -/
def placeCommand (c : Reg) (s : State) : State :=
  { s with phase := .idle, events := .hostWrite .w32 0x00 c :: s.events }

end Sys2Proof.Machine
end

