-- ==== Sys2Proof/Machine/Step.lean ====
section
/-! DEFINITION. One step of the block and its environment, and how a command word is placed to run next. -/

namespace Sys2Proof.Machine

/-- One step of the block of R6 and its environment. A command it runs is `exec`'s (Laws/Step.lean, `run_params`). -/
def step (s : State) : Host.Outcome State Fault Refusal := stepWith params s

/-- `s` with the command word `w` as the next thing the host writes to CMD (log 9): the block fetches nothing
(10_state R24), a command comes by a CMD write, which an idle block accepts. -/
def State.withFetchWord (s : State) (nbits w : Nat) : State := placeCommand (BitVec.ofNat 32 (w % 2 ^ nbits)) s

end Sys2Proof.Machine
end

