-- ==== Sys2Proof/Machine/Assembler.lean ====
section
/-! DEFINITION. The assembler's commands and pseudo-instructions (30_encoding R103, R104) and host programs (R105), as
data: what a line encodes, and the agents' steps a program's lines stand for. -/

namespace Sys2Proof.Machine

/-- A CH operand: a number or a channel name (R103). -/
inductive ChOperand where
  | number (n : Nat)
  | name (ch : Channel)
  deriving DecidableEq, Repr

/-- One command line with its literals (R103), pseudo-instructions last (R104). -/
inductive AsmLine where
  | crc8 (msb lsb : Nat)
  | crcchk (msb lsb crc : Nat)
  | exec (opc : Nat)
  | write (opc nw : Nat)
  | read (opc nw : Nat)
  | sent (raw : Nat)
  | scale (ch : ChOperand) (raw : Nat)
  | roundMetric (ch : ChOperand) (raw : Nat)
  | roundImperial (ch : ChOperand) (raw : Nat)
  | decodeRaw
  | decodeMetric
  | decodeImperial
  | crc8w (w : Nat)
  | crcchkw (w crc : Nat)
  | round (ch : ChOperand) (raw : Nat)
  | decode
  deriving DecidableEq, Repr

/-- A literal as a field of `n` bits: refused where it does not fit (R103). -/
def fit (n v : Nat) : Option (BitVec n) :=
  if v < 2 ^ n then some (BitVec.ofNat n v) else none

/-- The channel a CH operand names (R103). -/
def chOperand : ChOperand → Option Channel
  | .number n => (fit 3 n).map channelOf
  | .name ch => some ch

/-- The command a line encodes, pseudo-instructions expanded (R103, R104); none where an operand does not fit. -/
def assemble : AsmLine → Option Instr
  | .crc8 m l => do return .crc8 (← fit 8 m) (← fit 8 l)
  | .crcchk m l c => do return .crcchk (← fit 8 m) (← fit 8 l) (← fit 8 c)
  | .exec opc => do return .exec (← fit 16 opc)
  | .write opc nw => do return .write (← fit 16 opc) (← fit 6 nw)
  | .read opc nw => do return .read (← fit 16 opc) (← fit 6 nw)
  | .sent raw => do return .sent (← fit 16 raw)
  | .scale ch raw => do return .scale (← chOperand ch) (← fit 16 raw)
  | .roundMetric ch raw => do return .roundMetric (← chOperand ch) (← fit 16 raw)
  | .roundImperial ch raw => do return .roundImperial (← chOperand ch) (← fit 16 raw)
  | .decodeRaw => some .decodeRaw
  | .decodeMetric => some .decodeMetric
  | .decodeImperial => some .decodeImperial
  | .crc8w w => do let v ← fit 16 w; return .crc8 (msbOf v) (lsbOf v)
  | .crcchkw w c => do let v ← fit 16 w; return .crcchk (msbOf v) (lsbOf v) (← fit 8 c)
  | .round ch raw => do return .roundMetric (← chOperand ch) (← fit 16 raw)
  | .decode => some .decodeRaw

/-- One line of a host program (R105). A `poll` is unrolled into the number of STATUS reads it took. -/
inductive HostLine where
  | sw (reg : HostReg) (v : Reg)
  | lw (reg : HostReg)
  | command (line : AsmLine)
  | poll (reads : Nat)
  | transportWrote (ok : Bool)
  | transportRead (answer : Option (List Byte))
  | settleElapsed (ms : Nat)
  deriving DecidableEq, Repr

/-- The steps a line stands for (R105); none where its command does not assemble. -/
def lineEvents : HostLine → Option (List Event)
  | .sw reg v => some [.hostWrite .w32 (offsetOf reg) v]
  | .lw reg => some [.hostRead .w32 (offsetOf reg)]
  | .command line => (assemble line).map (fun i => [.hostWrite .w32 (offsetOf .cmd) (encode i)])
  | .poll reads => some (List.replicate reads (.hostRead .w32 (offsetOf .status)))
  | .transportWrote ok => some [.busWriteAnswer ok]
  | .transportRead answer => some [.busReadAnswer answer]
  | .settleElapsed ms => some [.settleElapsed ms]

/-- The steps of a host program, in order (R105). -/
def programEvents : List HostLine → Option (List Event)
  | [] => some []
  | l :: ls => do return (← lineEvents l) ++ (← programEvents ls)

/-- The value a step writes to a register, for the encoding of a program. -/
def writtenValue? : Event → Option Reg
  | .hostWrite _ _ v => some v
  | .hostRead _ _ | .busWriteAnswer _ | .busReadAnswer _ | .settleElapsed _ => none

/-- The encoding of a program: the values its `sw` lines write, in order (R105). -/
def programEncoding (p : List HostLine) : Option (List Reg) :=
  (programEvents p).map (List.filterMap writtenValue?)

end Sys2Proof.Machine
end

