-- ==== Sys2Proof/Safety.lean ====
section
/-! DEFINITION. What claims are stated in: a final run, the invariant of reachable states (10_state R46 and what the
codec keeps besides), and the views of a state that statements compare. -/

namespace Sys2Proof.Machine

/-- A state with nothing left to do and no fault recorded (70_reset R265). -/
def Final (s : State) : Prop := s.phase = .idle ∧ s.fault = none ∧ s.events = []

/-- DEN is one of its values (R32, R46). -/
def DenLegal (d : Reg) : Prop := d = 1 ∨ d = 2 ∨ d = 10 ∨ d = 100 ∨ d = 200

/-- A register that holds a CRC byte or a numerator of 42_measure R195, read as `s32`. -/
def InNumeratorRange (r : Reg) : Prop := -32768 ≤ r.toInt ∧ r.toInt ≤ 65534

/-- The words DATA[0..n-1] as the wire carries them (20_memory R71, R72). -/
def wireData (p : Params) (s : State) (n : Nat) : List Byte :=
  ((s.data.toList.take n).map (wireWord p)).flatten

/-- The frame R71 gives for the command the latches hold. -/
def expectedFrame (p : Params) (s : State) : List Byte :=
  opcodeBytes s.lOpc ++ (if s.lOp = opWrite then wireData p s s.lNw.toNat else [])

/-- A command is in flight: its latches are those of an EXEC, WRITE or READ that passed its checks (R42, R94, R141). -/
structure LatchesLegal (p : Params) (s : State) : Prop where
  op : s.lOp = opExec ∨ s.lOp = opWrite ∨ s.lOp = opRead
  words : if s.lOp = opExec then s.lNw = 0 else nwLegal p s.lNw = true
  settle : p.minSettleMs ≤ s.lSettle.toNat

/-- STATUS and UNKMASK read as R46 says: BUSY exactly when PHASE is not IDLE, PHASE one of 0 to 4, CODE one of 0 to 5,
UNKMASK's upper bits 0. -/
structure ReadsLegal (s : State) : Prop where
  busyBit : (statusWord s).getLsbD 0 = decide (s.phase ≠ .idle)
  phaseField : ((statusWord s).extractLsb' 1 3).toNat ≤ 4
  codeField : ((statusWord s).extractLsb' 4 4).toNat ≤ 5
  maskField : ∀ v, readReg .unkMask s = .ok v → v.extractLsb' 8 24 = 0

/-- The invariant of reachable states of a block: what R46 lists; besides, RESULT and OUT hold numbers of R195, only the
block's own words of DATA can hold values, a busy block has legal latches, a frame that waits for the transport is the
one R71 gives and fits FRAME, only a READ waits for a response, and POST is entered only where `POST_READ_SETTLE_MS` is
positive (R161, R168). -/
structure Inv (p : Params) (s : State) : Prop where
  reads : ReadsLegal s
  den : DenLegal s.den
  result : InNumeratorRange s.result
  out : ∀ i : Fin channelCapacity, InNumeratorRange (s.out.get i)
  words : ∀ i, p.maxWords ≤ i → dataWord? s i = none
  latches : s.phase ≠ .idle → LatchesLegal p s
  frame : s.phase = .tx → txFrame s = expectedFrame p s ∧ s.lTxLen.toNat ≤ p.frameBytes
  rx : s.phase = .rx → s.lOp = opRead
  post : s.phase = .post → 0 < p.postReadSettleMs

/-- Everything a failed command may not touch: DATA, RESULT, DEN, OUT and UNKMASK (60_exceptions R222). -/
structure SameResults (s t : State) : Prop where
  data : t.data = s.data
  dataValid : t.dataValid = s.dataValid
  result : t.result = s.result
  den : t.den = s.den
  out : t.out = s.out
  unkMask : t.unkMask = s.unkMask

/-- Two states agree on all but what no one can see: FRAME and the latches (10_state R41, R42), and the content of DATA
words that hold no value (R30, U10). -/
structure SameButInternal (s t : State) : Prop where
  cmd : t.cmd = s.cmd
  phase : t.phase = s.phase
  code : t.code = s.code
  matchBit : t.matchBit = s.matchBit
  unknown : t.unknown = s.unknown
  result : t.result = s.result
  den : t.den = s.den
  out : t.out = s.out
  unkMask : t.unkMask = s.unkMask
  words : ∀ i, dataWord? t i = dataWord? s i
  settle : t.settle = s.settle
  busAddr : t.busAddr = s.busAddr
  fault : t.fault = s.fault
  events : t.events = s.events
  bus : t.bus = s.bus
  observed : t.observed = s.observed
  draws : t.draws = s.draws

/-- Two states no host and no device can tell apart: they agree on all but the internal state, and in the internal
state on what the running command still reads: the frame to send while it waits, the latches until the command ends,
and a READ's outcome in the post hold (41_codec R142, 10_state R42). -/
structure Indistinguishable (s t : State) : Prop where
  outside : SameButInternal s t
  latches : s.phase ≠ .idle → t.lOp = s.lOp ∧ t.lNw = s.lNw ∧ t.lAddr = s.lAddr ∧ t.lSettle = s.lSettle
  frame : s.phase = .tx → txFrame t = txFrame s
  outcome : s.phase = .post → t.lCode = s.lCode

end Sys2Proof.Machine
end

