-- ==== Sys2Proof/Certificates/Slice0/Obligations.lean ====
section
/-! DEFINITION. The statements about the block, each from the rules of spec/ that its docstring names. -/

open Sys2Proof Sys2Proof.Machine

/-! ## Words of the rules that the statements need, written from spec/ and apart from the machine -/

namespace Sys2Proof.Rule

/-- With no fault mark set (a claim assumes none, R230), the next step of the system is the scheduled step `e`, with
`es` to follow. -/
def Next (s : State) (e : Event) (es : List Event) : Prop := s.fault = none ∧ s.events = e :: es

/-- The host's 32-bit write of `c` to CMD, at offset 0x00, is the next step of an idle block (R28). -/
def CmdWrite (s : State) (c : Reg) (es : List Event) : Prop :=
  Next s (.hostWrite .w32 0x00 c) es ∧ s.phase = .idle

/-- Bit `k` is reserved in the format of OP value `op`, read off the format tables R92 to R99. -/
def ReservedBit (op k : Nat) : Prop :=
  (op = 1 ∧ 4 ≤ k ∧ k ≤ 15) ∨ (op = 2 ∧ 4 ≤ k ∧ k ≤ 7) ∨ (op = 3 ∧ 4 ≤ k ∧ k ≤ 15) ∨
  (op = 4 ∧ 4 ≤ k ∧ k ≤ 9) ∨ (op = 5 ∧ 4 ≤ k ∧ k ≤ 9) ∨ (op = 6 ∧ 4 ≤ k ∧ k ≤ 15) ∨
  (op = 7 ∧ 7 ≤ k ∧ k ≤ 15) ∨ (op = 8 ∧ (k = 7 ∨ (10 ≤ k ∧ k ≤ 15))) ∨
  (op = 9 ∧ ((4 ≤ k ∧ k ≤ 7) ∨ (10 ≤ k ∧ k ≤ 31)))

/-- OP of a word, as a number. -/
def op (c : Reg) : Nat := c.toNat % 16

/-- RMODE of a word, as a number. -/
def rmode (c : Reg) : Nat := c.toNat / 2 ^ 8 % 4

/-- NW of a word, as a number. -/
def nw (c : Reg) : Nat := c.toNat / 2 ^ 10 % 64

/-- An illegal command word (R101). -/
def Illegal (c : Reg) : Prop :=
  (op c = 0 ∨ 10 ≤ op c) ∨ (∃ k, ReservedBit (op c) k ∧ c.getLsbD k = true) ∨
  ((op c = 8 ∨ op c = 9) ∧ rmode c = 3) ∨ (op c = 8 ∧ rmode c = 0)

/-- A WRITE or READ whose NW is 0 or above MAX_WORDS (R101). -/
def BadCount (c : Reg) : Prop := (op c = 4 ∨ op c = 5) ∧ (nw c = 0 ∨ 16 < nw c)

/-- A register of this block, whose DATA words are 0 to 15 (R27, R30). -/
def Mapped (r : HostReg) : Prop := ∀ i, r = .data i → i.val < 16

/-- What a host register holds, as the 32-bit value of a read (R28 to R36, R65, R80): reserved bits 0, and nothing for a
DATA word that holds no value. STATUS's fields have a statement of their own. -/
def holds (s : State) : HostReg → Option Reg
  | .cmd => some s.cmd
  | .status => some (statusWord s)
  | .result => some s.result
  | .den => some s.den
  | .settle => some (s.settle.setWidth 32)
  | .busAddr => some (s.busAddr.setWidth 32)
  | .unkMask => some (s.unkMask.setWidth 32)
  | .out i => some (s.out.get i)
  | .data i => (dataWord? s i.val).map (fun w => w.setWidth 32)

/-- A host register's named bits (R27 to R36). -/
def namedBits : HostReg → Reg
  | .cmd | .result | .den | .out _ => 0xFFFFFFFF
  | .status => 0x3FF
  | .settle | .data _ => 0xFFFF
  | .busAddr => 0x7F
  | .unkMask => 0xFF

/-- `RoundTies(v)` on a rational (R10). -/
def roundTies (ties : RoundTies) (v : ℚ) : ℤ :=
  match ties with
  | .halfUp => ⌊v + 1 / 2⌋
  | .even => if v - ⌊v⌋ = 1 / 2 then (if ⌊v⌋ % 2 = 0 then ⌊v⌋ else ⌊v⌋ + 1) else ⌊v + 1 / 2⌋

/-- `RoundToNearest(v, N)` on rationals (R10). -/
def roundToNearest (ties : RoundTies) (v n : ℚ) : ℚ := roundTies ties (v / n) * n

/-- The integer value of a raw word on a channel (R181). -/
def value (ch : Channel) (w : Word) : ℤ := if channelNumber ch ≤ 3 then (w.toNat : ℤ) else w.toInt

/-- `S(i)` by channel number (R180). -/
def scale (ch : Channel) : ℚ := [10, 10, 10, 10, 100, 200, 10, 10].getD (channelNumber ch) 0

/-- `DEN(i, mode)` by channel number (R182). -/
def den (ch : Channel) : RMode → Nat
  | .raw => [10, 10, 10, 10, 100, 200, 10, 10].getD (channelNumber ch) 0
  | .metric => [1, 1, 1, 1, 1, 2, 1, 1].getD (channelNumber ch) 0
  | .imperial => 1

/-- The value a channel delivers for a word that is no sentinel: scaled (R185), in the display modes rounded as
R186 to R191 say. -/
def delivered (ties : RoundTies) (ch : Channel) (w : Word) (m : RMode) : ℚ :=
  let v : ℚ := value ch w / scale ch
  match m with
  | .raw => v
  | .metric | .imperial =>
    match ch with
    | .pm1 | .pm2p5 => if v < 100 then roundToNearest ties v 5 else roundToNearest ties v 10
    | .pm4 | .pm10 => roundToNearest ties v 25
    | .rh => roundToNearest ties v 5
    | .t => if m = .metric then roundToNearest ties v (1 / 2) else roundTies ties (v * 9 / 5 + 32)
    | .voc | .nox => roundTies ties v

/-- A sentinel word (R183). -/
def Sentinel (w : Word) : Prop := w = 0x7FFF ∨ w = 0xFFFF

/-- R195's bounds of a numerator. -/
def InRange (ch : Channel) (m : RMode) (n : ℤ) : Prop :=
  match m with
  | .raw => if channelNumber ch ≤ 3 then 0 ≤ n ∧ n ≤ 65534 else -32768 ≤ n ∧ n ≤ 32766
  | .metric | .imperial =>
    match ch with
    | .pm1 | .pm2p5 | .pm4 | .pm10 => 0 ≤ n ∧ n ≤ 6550
    | .rh => -330 ≤ n ∧ n ≤ 330
    | .t => if m = .metric then -328 ≤ n ∧ n ≤ 328 else -263 ≤ n ∧ n ≤ 327
    | .voc | .nox => -3277 ≤ n ∧ n ≤ 3277

/-- Byte `k` of a response frame. -/
def byte (r : List Byte) (k : Nat) : Byte := r.getD k 0

/-- Word `i` of a response frame passes its CRC (R163). -/
def WordOk (r : List Byte) (i : Nat) : Prop :=
  crc8 params (byte r (3 * i)) (byte r (3 * i + 1)) = byte r (3 * i + 2)

/-- DATA[0..n-1] all hold values (R30). -/
def DataHeld (s : State) (n : Nat) : Prop := ∀ i, i < n → (dataWord? s i).isSome = true

/-- The words the block's DATA window holds from index 0, in order, as the wire carries them (R71, R72). -/
def payload (ws : List Word) : List Byte :=
  (ws.map fun w => [w.extractLsb' 8 8, w.extractLsb' 0 8, crc8 params (w.extractLsb' 8 8) (w.extractLsb' 0 8)]).flatten

/-- The decode command of an accessor (R91, R95). -/
def decodeOf : RMode → Instr
  | .raw => .decodeRaw
  | .metric => .decodeMetric
  | .imperial => .decodeImperial

/-- The states a command reaches from the state `s` of its CMD write, whatever the other agents do meanwhile: the one
that write leaves, and while the command runs the one each further step leaves (R12, R255). -/
inductive Course (s : State) : State → Prop where
  | accepted {t : State} (first : step s = .next t) : Course s t
  | goesOn {t u : State} (before : Course s t) (running : t.phase ≠ .idle) (then_ : step t = .next u) : Course s u

/-- A channel's OUT register (R33). -/
def outIndex (ch : Channel) : Fin channelCapacity := ⟨channelNumber ch, by cases ch <;> decide⟩

end Sys2Proof.Rule

open Sys2Proof.Rule

/-! ## Encoding (30_encoding) -/

/-- R92 to R99, R102: every field of every command survives encoding and decoding, at every value it can hold. -/
def Obligations.DecodeReadsBackEveryEncoding : Prop :=
  ∀ i : Instr, decode (encode i) = .ok i

/-- R90, R100, R102: a word has at most one reading: a word that decodes is its command's one encoding, so no bit of a
legal word is ignored. -/
def Obligations.DecodedWordIsItsEncoding : Prop :=
  ∀ (c : Reg) (i : Instr), decode c = .ok i → encode i = c

/-- R101: the decoder rejects exactly the illegal words; a CMD write of one completes with ILLEGAL_CMD, one of a WRITE
or READ with a bad count with LENGTH_ERROR, and neither changes anything but CMD and STATUS. -/
def Obligations.IllegalWordsAndBadCountsComplete : Prop :=
  ∀ (s : State) (c : Reg) (es : List Event), CmdWrite s c es →
    ((∃ e, decode c = .error e) ↔ Illegal c) ∧
    (Illegal c → step s = .next
      { s with events := es, cmd := c, code := .illegalCmd, matchBit := false, unknown := false }) ∧
    (¬ Illegal c → BadCount c → step s = .next
      { s with events := es, cmd := c, code := .lengthError, matchBit := false, unknown := false })

/-- 95_test_vectors 2.2: words the spec spells out, one per family and more. -/
def Obligations.SpelledOutWordsDecode : Prop :=
  decode 0xBEEF0001 = .ok (.crc8 0xBE 0xEF) ∧ decode 0xBEEF9202 = .ok (.crcchk 0xBE 0xEF 0x92) ∧
  decode 0x12340003 = .ok (.exec 0x1234) ∧ decode 0xABCD0804 = .ok (.write 0xABCD 2) ∧
  decode 0x03004005 = .ok (.read 0x0300 16) ∧ decode 0x7FFF0006 = .ok (.sent 0x7FFF) ∧
  decode 0x11760057 = .ok (.scale .t 0x1176) ∧ decode 0x11760158 = .ok (.roundMetric .t 0x1176) ∧
  decode 0x11760258 = .ok (.roundImperial .t 0x1176) ∧ decode 0x00000109 = .ok .decodeMetric

/-- R104: `crc8w` and `crcchkw` split their word into its two bytes, `round` is `round.metric`, `decode` is
`decode.raw`. R103: the assembler refuses a line with an operand that does not fit its field: a RAW, a CRC or a channel
number, and by inference (R104 splits W into `W[15:8]` and `W[7:0]`) a W of more than 16 bits. -/
def Obligations.PseudoInstructionsExpand : Prop :=
  (∀ w, w < 2 ^ 16 → assemble (.crc8w w) = assemble (.crc8 (w / 256) (w % 256))) ∧
  (∀ w k, w < 2 ^ 16 → assemble (.crcchkw w k) = assemble (.crcchk (w / 256) (w % 256) k)) ∧
  (∀ ch raw, assemble (.round ch raw) = assemble (.roundMetric ch raw)) ∧
  assemble .decode = assemble .decodeRaw ∧
  (∀ w, 2 ^ 16 ≤ w → assemble (.crc8w w) = none) ∧
  (∀ w k, 2 ^ 16 ≤ w ∨ 2 ^ 8 ≤ k → assemble (.crcchkw w k) = none) ∧
  (∀ ch raw, 2 ^ 16 ≤ raw → assemble (.round ch raw) = none) ∧
  (∀ n raw, 8 ≤ n → assemble (.round (.number n) raw) = none)

/-! ## Reset and steps (70_reset_and_hazards, 10_state) -/

/-- R250, R251: the reset input leaves R250's values from whatever state, busy or not. BUSADDR's 0x69 is the spec's
from general knowledge (G4, log 15). What DATA, FRAME and the latches hold, to which R250 gives no value, is not
claimed. -/
def Obligations.ResetInputLeavesTheStatedValues : Prop :=
  ∀ (s : State) (es : List Event),
    let t := resetInput params s es
    t.cmd = 0 ∧ statusWord t = 0 ∧ t.phase = .idle ∧ t.code = .ok ∧ t.result = 0 ∧ t.den = 1 ∧ t.settle = 20 ∧
    t.busAddr = 0x69 ∧ t.unkMask = 0 ∧ (∀ i, t.out.get i = 0) ∧ (∀ i, dataWord? t i = none) ∧ t.fault = none ∧
    t.events = es

/-- R28, R100: a CMD write of a word that decodes runs that command, on the state with CMD written and CODE, MATCH and
UNKNOWN cleared. -/
def Obligations.StepRunsTheDecodedCommand : Prop :=
  ∀ (s : State) (c : Reg) (i : Instr) (es : List Event), CmdWrite s c es → decode c = .ok i →
    step s = exec i { s with events := es, cmd := c, code := .ok, matchBit := false, unknown := false }

/-- R44, R230: no step clears a fault mark, and a state with one is never final. That the steps go on from a marked
state, and that a later violation's reason takes the place of the earlier one, is log 7. -/
def Obligations.NoStepClearsTheFaultMark : Prop :=
  ∀ (s t : State) (r : FaultReason), s.fault = some r → step s = .next t →
    (∃ r', t.fault = some r') ∧ ¬ Final s ∧ ¬ Final t

/-- R230 (log 8 for the order of the reasons, log 7 for a step from a marked state): a fault mark is raised only by the
host action R230 gives its reason: an access of another width; one at an unaligned offset; one at an aligned offset
that names no register; a write to CMD, SETTLE, BUSADDR or DATA[i] while BUSY; a read of a DATA word that holds no
value, or a CMD write of a WRITE or DECODE that needs one. -/
def Obligations.FaultsAreRaisedOnlyByTheirCauses : Prop :=
  ∀ (s t : State) (r : FaultReason), step s = .next t → t.fault = some r → s.fault ≠ some r →
    (r = .badWidth ∧ ∃ w off v es, w ≠ .w32 ∧
      (s.events = .hostRead w off :: es ∨ s.events = .hostWrite w off v :: es)) ∨
    (r = .misaligned ∧ ∃ off v es, off.toNat % 4 ≠ 0 ∧
      (s.events = .hostRead .w32 off :: es ∨ s.events = .hostWrite .w32 off v :: es)) ∨
    (r = .unmapped ∧ ∃ off v es, off.toNat % 4 = 0 ∧ (off.toNat = 0x1C ∨ 0x80 ≤ off.toNat) ∧
      (s.events = .hostRead .w32 off :: es ∨ s.events = .hostWrite .w32 off v :: es)) ∨
    (r = .writeWhileBusy ∧ s.phase ≠ .idle ∧ ∃ reg v es, s.events = .hostWrite .w32 (offsetOf reg) v :: es ∧
      (reg = .cmd ∨ reg = .settle ∨ reg = .busAddr ∨ ∃ i, i.val < 16 ∧ reg = .data i)) ∨
    (r = .unwrittenData ∧
      ((∃ i es, i.val < 16 ∧ s.dataValid.get i = false ∧ s.events = .hostRead .w32 (offsetOf (.data i)) :: es) ∨
        (s.phase = .idle ∧ ∃ c es i, s.events = .hostWrite .w32 0x00 c :: es ∧ dataWord? s i = none ∧
          ((∃ opc nw, decode c = .ok (.write opc nw) ∧ i < nw.toNat ∧ nw.toNat ≤ 16) ∨
            (∃ m, decode c = .ok (decodeOf m) ∧ i < 8)))))

/-! ## The host's registers (10_state, 20_memory) -/

/-- R27, R7, R63, for every legal MAX_WORDS (16 in this block): each register stands at R27's offset; an offset names
exactly the register that stands there, DATA having MAX_WORDS words; the aligned offsets that name none are 0x1C and
those from 0x40 + 4*MAX_WORDS on. -/
def Obligations.RegisterMapIsOneToOne : Prop :=
  (offsetOf .cmd = 0x00 ∧ offsetOf .status = 0x04 ∧ offsetOf .result = 0x08 ∧ offsetOf .den = 0x0C ∧
    offsetOf .settle = 0x10 ∧ offsetOf .busAddr = 0x14 ∧ offsetOf .unkMask = 0x18 ∧
    (∀ i, (offsetOf (.out i)).toNat = 0x20 + 4 * i.val) ∧ (∀ i, (offsetOf (.data i)).toNat = 0x40 + 4 * i.val)) ∧
  (∀ p : Params, p.Legal →
    (∀ (off : BitVec 8) (r : HostReg),
      regAt p off = .ok r ↔ offsetOf r = off ∧ ∀ i, r = .data i → i.val < p.maxWords) ∧
    (∀ off : BitVec 8, off.toNat % 4 = 0 →
      (regAt p off = .error .unmapped ↔ off.toNat = 0x1C ∨ 0x40 + 4 * p.maxWords ≤ off.toNat) ∧
      (off.toNat ≠ 0x1C → off.toNat < 0x40 + 4 * p.maxWords → ∃ r, regAt p off = .ok r))) ∧
  (params.Legal ∧ params.maxWords = 16)

/-- R61, R62, R63 (which reason an access records that breaks several is the model's choice, log 8): an illegal
access, read or write, sets the fault mark and changes no register. -/
def Obligations.IllegalAccessesFault : Prop :=
  ∀ (s : State) (w : AccessWidth) (off : BitVec 8) (v : Reg) (es : List Event),
    (Next s (.hostRead w off) es ∨ Next s (.hostWrite w off v) es) →
    (w ≠ .w32 → step s = .next { s with events := es, fault := some .badWidth }) ∧
    (w = .w32 → off.toNat % 4 ≠ 0 → step s = .next { s with events := es, fault := some .misaligned }) ∧
    (w = .w32 → off.toNat % 4 = 0 → (off.toNat = 0x1C ∨ 0x80 ≤ off.toNat) →
      step s = .next { s with events := es, fault := some .unmapped })

/-- R65, R25, R28, R30 to R36: what a host read and a host write of each register do: a read returns what the register
holds and changes nothing of the block, a write sets the register's named bits, one of class RO is ignored, one to CMD is a command. That a write to a register of class RO
is ignored while BUSY too is log 8's reading of R67 beside R231. -/
def Obligations.HostAccessesDoWhatTheMapSays : Prop :=
  ∀ (s : State) (es : List Event),
    (∀ r v, readReg r s = .ok v ↔ holds s r = some v) ∧
    (∀ r v, Mapped r → Next s (.hostRead .w32 (offsetOf r)) es → holds s r = some v →
      step s = .next { s with events := es, observed := s.observed ++ [v] }) ∧
    (∀ r v, accessOf r = .ro → Next s (.hostWrite .w32 (offsetOf r) v) es → step s = .next { s with events := es }) ∧
    (s.phase = .idle →
      (∀ v, Next s (.hostWrite .w32 (offsetOf .settle) v) es →
        step s = .next { s with events := es, settle := v.extractLsb' 0 16 }) ∧
      (∀ v, Next s (.hostWrite .w32 (offsetOf .busAddr) v) es →
        step s = .next { s with events := es, busAddr := v.extractLsb' 0 7 }) ∧
      (∀ i v, i.val < 16 → Next s (.hostWrite .w32 (offsetOf (.data i)) v) es →
        ∃ t, step s = .next t ∧ t = { s with events := es, data := t.data, dataValid := t.dataValid } ∧
          ∀ j, dataWord? t j = if j = i.val then some (v.extractLsb' 0 16) else dataWord? s j) ∧
      (∀ v, Next s (.hostWrite .w32 (offsetOf .cmd) v) es →
        step s = commandWrite params v { s with events := es }))

/-- R26: a register's unnamed bits read 0, and a value written to SETTLE, BUSADDR or DATA reads back less its unnamed
bits. -/
def Obligations.ReservedBitsReadZeroAndIgnoreWrites : Prop :=
  (∀ (s : State) (r : HostReg) (v : Reg), readReg r s = .ok v → v &&& ~~~ namedBits r = 0) ∧
  (∀ (s : State) (r : HostReg) (v : Reg) (es : List Event), Mapped r → accessOf r = .rw → s.phase = .idle →
    Next s (.hostWrite .w32 (offsetOf r) v) (.hostRead .w32 (offsetOf r) :: es) →
    ∃ t u, step s = .next t ∧ step t = .next u ∧ u.observed = s.observed ++ [v &&& namedBits r])

/-- R29, R37, R38: STATUS as the host reads it, field by field. -/
def Obligations.StatusFieldsAreWhereR29Says : Prop :=
  ∀ s : State, ∃ v, readReg .status s = .ok v ∧
    v.getLsbD 0 = decide (s.phase ≠ .idle) ∧
    (v.extractLsb' 1 3).toNat = (match s.phase with
      | .idle => 0 | .tx => 1 | .settle => 2 | .rx => 3 | .post => 4) ∧
    (v.extractLsb' 4 4).toNat = (match s.code with
      | .ok => 0 | .crcMismatch => 1 | .readUnavailable => 2 | .transportError => 3 | .illegalCmd => 4
      | .lengthError => 5) ∧
    v.getLsbD 8 = s.matchBit ∧ v.getLsbD 9 = s.unknown ∧ v.extractLsb' 10 22 = 0

/-- R67, R231: while BUSY a write to CMD, SETTLE, BUSADDR or DATA[i] raises WRITE_WHILE_BUSY, a read of a register
that holds a value is served, STATUS showing the PHASE, and the results keep their values, DATA at every step but the
transport's answer to a READ, scheduled or drawn, which commits it. -/
def Obligations.BusyBlockRefusesWritesAndKeepsResults : Prop :=
  ∀ (s : State) (es : List Event), s.phase ≠ .idle →
    (∀ r v, Mapped r → accessOf r ≠ .ro → Next s (.hostWrite .w32 (offsetOf r) v) es →
      step s = .next { s with events := es, fault := some .writeWhileBusy }) ∧
    (∀ r v, Mapped r → Next s (.hostRead .w32 (offsetOf r)) es → readReg r s = .ok v →
      step s = .next { s with events := es, observed := s.observed ++ [v] }) ∧
    (∃ v, readReg .status s = .ok v ∧ v.extractLsb' 1 3 = phaseBits s.phase) ∧
    (∀ t, s.fault = none → step s = .next t →
      t.result = s.result ∧ t.den = s.den ∧ t.out = s.out ∧ t.unkMask = s.unkMask ∧
      (s.phase ≠ .rx ∨ (∃ e rest, s.events = e :: rest ∧ ∀ a, e ≠ .busReadAnswer a) →
        t.data = s.data ∧ t.dataValid = s.dataValid))

/-- R68: a read of a DATA word that holds no value raises UNWRITTEN_DATA. -/
def Obligations.ReadOfUnwrittenDataFaults : Prop :=
  ∀ (s : State) (i : Fin dataCapacity) (es : List Event), i.val < 16 → s.dataValid.get i = false →
    Next s (.hostRead .w32 (offsetOf (.data i))) es →
    step s = .next { s with events := es, fault := some .unwrittenData }

/-! ## The CRC-8 engine (40_crc) -/

/-- R121: the ROM, whose bytes the spec takes from general knowledge (G1, log 11), has 256 bytes, each `Shift8` of its
index. -/
def Obligations.CrcRomIsShift8OfTheIndex : Prop :=
  crcTable.length = 256 ∧ ∀ i : Byte, romByte crcTable i = shift8 i

/-- R123: the polynomial core and the two look-ups agree on every pair of bytes, with the table of log 11 (G1, G2); so
in every block that may be built, with either engine, `Crc8` is R122's two look-ups in the block's own table. -/
def Obligations.PolynomialCoreEqualsTheTable : Prop :=
  (∀ (rom : List Byte) (msb lsb : Byte),
    crc8With .poly rom msb lsb = shift8 (shift8 (0xFF ^^^ msb) ^^^ lsb) ∧
    crc8With .poly rom msb lsb = crc8With .table crcTable msb lsb) ∧
  (∀ p : Params, p.Legal → ∀ msb lsb : Byte,
    crc8 p msb lsb = romByte p.crcTable (romByte p.crcTable (0xFF ^^^ msb) ^^^ lsb))

/-- R124, with the table of log 11: the CRC is a function of its two bytes, the residue over a word and its CRC is 0,
`Crc8(FF, 00)` is 0, and an all-ones triple never passes. -/
def Obligations.CrcLaws : Prop :=
  (∀ msb lsb : Byte, crc8 params msb lsb = crcPolyCore msb lsb) ∧
  (∀ msb lsb k : Byte, crcPolyRun 0xFF [msb, lsb, k] = 0 ↔ k = crc8 params msb lsb) ∧
  crc8 params 0xFF 0x00 = 0x00 ∧ crc8 params 0xFF 0xFF = 0xAC ∧ tripleValid params (0xFF, 0xFF, 0xFF) = false

/-- R122, R163, with the table of log 11: a check catches every error that changes only one of the three bytes of a
word. -/
def Obligations.CrcCatchesOneWrongByte : Prop :=
  ∀ m l k m' l' k' : Byte, tripleValid params (m, l, k) = true →
    ((m' ≠ m ∧ l' = l ∧ k' = k) ∨ (m' = m ∧ l' ≠ l ∧ k' = k) ∨ (m' = m ∧ l' = l ∧ k' ≠ k)) →
    tripleValid params (m', l', k') = false

/-- R125, with the table of log 11: CRC8 completes: RESULT is the polynomial CRC, zero-extended; besides it only CODE
and PHASE are written. -/
def Obligations.Crc8Completes : Prop :=
  ∀ (msb lsb : Byte) (s : State), ∃ t, exec (.crc8 msb lsb) s = .next t ∧
    t = { s with result := t.result, code := .ok, phase := .idle } ∧
    t.result.toNat = (shift8 (shift8 (0xFF ^^^ msb) ^^^ lsb)).toNat

/-- R126, with the table of log 11: CRCCHK completes: RESULT is the polynomial CRC, MATCH says whether it is the
received byte, and a mismatch completes OK; besides these only PHASE is written. -/
def Obligations.CrcchkCompletes : Prop :=
  ∀ (msb lsb crc : Byte) (s : State), ∃ t, exec (.crcchk msb lsb crc) s = .next t ∧
    t = { s with result := t.result, matchBit := t.matchBit, code := .ok, phase := .idle } ∧
    t.result.toNat = (shift8 (shift8 (0xFF ^^^ msb) ^^^ lsb)).toNat ∧
    (t.matchBit = true ↔ t.result.toNat = crc.toNat)

/-! ## The measurement decoder (42_measure) -/

/-- R10: the integer rounding of a quotient is a nearest integer, ties going to the even one or upward, and
`RoundToNearest` is that of the quotient by N, times N. -/
def Obligations.RoundingIsNearestWithTheTieRule : Prop :=
  ∀ (ties : RoundTies) (p : ℤ) (q : Nat), 0 < q →
    let v : ℚ := (p : ℚ) / q
    let r : ℤ := Machine.roundTies ties p q
    |v - r| ≤ 1 / 2 ∧
    (|v - r| = 1 / 2 → match ties with
      | .even => r % 2 = 0
      | .halfUp => r = ⌊v + 1 / 2⌋) ∧
    (r = Rule.roundTies ties v) ∧
    (∀ n : Nat, 0 < n → ((Machine.roundToNearest ties p q n : ℤ) : ℚ) = Rule.roundToNearest ties v n)

/-- R180 to R194, signed words in two's complement (G5, log 16): `Chan` delivers unknown with numerator 0 for a
sentinel, and else the exact rational of the rules over `DEN(i, mode)`, for either tie rule. -/
def Obligations.ChanDeliversTheExactRational : Prop :=
  ∀ (ties : RoundTies) (ch : Channel) (w : Word) (m : RMode),
    denOf ch m = den ch m ∧ (scaleOf ch : ℚ) = scale ch ∧
    (Sentinel w → chan ties ch w m = (true, 0)) ∧
    (¬ Sentinel w → (chan ties ch w m).1 = false ∧
      ((chan ties ch w m).2 : ℚ) / (den ch m : ℚ) = delivered ties ch w m)

/-- R183, R184, R193: a channel is unknown exactly for the two sentinel patterns, whatever its scale, its signedness
and the mode. -/
def Obligations.UnknownExactlyForTheSentinels : Prop :=
  ∀ (ties : RoundTies) (ch : Channel) (w : Word) (m : RMode),
    ((chan ties ch w m).1 = true ↔ (w = 0x7FFF ∨ w = 0xFFFF)) ∧
    ((chan ties ch w m).1 = true → (chan ties ch w m).2 = 0)

/-- R195, two's complement (G5, log 16): numerators lie in R195's bounds, and the register's `s32` is the numerator
itself. -/
def Obligations.NumeratorsFitTheirRegisters : Prop :=
  ∀ (ties : RoundTies) (ch : Channel) (w : Word) (m : RMode), ¬ Sentinel w →
    InRange ch m (chan ties ch w m).2 ∧ (BitVec.ofInt 32 (chan ties ch w m).2).toInt = (chan ties ch w m).2

/-- R200: SENT completes: UNKNOWN is the sentinel test; RESULT and DEN and all else but CODE and PHASE are
unchanged. -/
def Obligations.SentCompletes : Prop :=
  ∀ (raw : Word) (s : State), ∃ t, exec (.sent raw) s = .next t ∧
    t = { s with unknown := t.unknown, code := .ok, phase := .idle } ∧ (t.unknown = true ↔ Sentinel raw)

/-- R201, two's complement (G5, log 16): SCALE completes: UNKNOWN, RESULT and DEN are the scaled value's, `x` over
`S(CH)`, or the sentinel's. -/
def Obligations.ScaleCompletes : Prop :=
  ∀ (ch : Channel) (raw : Word) (s : State), ∃ t, exec (.scale ch raw) s = .next t ∧
    t = { s with result := t.result, den := t.den, unknown := t.unknown, code := .ok, phase := .idle } ∧
    (t.den.toNat : ℚ) = scale ch ∧ (t.unknown = true ↔ Sentinel raw) ∧
    (Sentinel raw → t.result = 0) ∧ (¬ Sentinel raw → t.result.toInt = value ch raw)

/-- R202 (with this block's tie rule, EVEN, log 13; two's complement, log 16): ROUND.METRIC and ROUND.IMPERIAL
complete: RESULT over DEN is the display value of R186 to R191, or the sentinel's unknown with RESULT 0. -/
def Obligations.RoundCompletes : Prop :=
  ∀ (ch : Channel) (raw : Word) (m : RMode) (i : Instr) (s : State),
    (m = .metric ∧ i = .roundMetric ch raw) ∨ (m = .imperial ∧ i = .roundImperial ch raw) →
    ∃ t, exec i s = .next t ∧
      t = { s with result := t.result, den := t.den, unknown := t.unknown, code := .ok, phase := .idle } ∧
      t.den.toNat = den ch m ∧ (t.unknown = true ↔ Sentinel raw) ∧ (Sentinel raw → t.result = 0) ∧
      (¬ Sentinel raw → (t.result.toInt : ℚ) / (t.den.toNat : ℚ) = delivered .even ch raw m)

/-- R205 (with this block's tie rule, EVEN, log 13; two's complement, log 16): with DATA[0..7] holding values the
three DECODEs complete: each OUT is its channel's numerator, UNKMASK has each channel's flag, UNKNOWN says whether any
is unknown; RESULT, DEN and all else but CODE and PHASE are unchanged. -/
def Obligations.DecodeCompletes : Prop :=
  ∀ (m : RMode) (s : State), DataHeld s 8 →
    ∃ t, exec (decodeOf m) s = .next t ∧
      t = { s with out := t.out, unkMask := t.unkMask, unknown := t.unknown, code := .ok, phase := .idle } ∧
      (∀ (ch : Channel) (w : Word), dataWord? s (channelNumber ch) = some w →
        (t.unkMask.getLsbD (channelNumber ch) = true ↔ Sentinel w) ∧
        (Sentinel w → t.out.get (outIndex ch) = 0) ∧
        (¬ Sentinel w → ((t.out.get (outIndex ch)).toInt : ℚ) / (den ch m : ℚ) = delivered .even ch w m)) ∧
      (t.unknown = true ↔ ∃ ch : Channel, t.unkMask.getLsbD (channelNumber ch) = true)

/-- R205: a DECODE with any of DATA[0..7] holding no value raises UNWRITTEN_DATA and decodes nothing. -/
def Obligations.DecodeOfUnwrittenDataFaults : Prop :=
  ∀ (m : RMode) (s : State), ¬ DataHeld s 8 →
    exec (decodeOf m) s = .next { s with fault := some .unwrittenData }

/-! ## The command codec (41_codec) -/

/-- R145, R141: EXEC completes its accept step: the latches, the two opcode bytes to send, big-endian, PHASE TX; DATA
and the rest of FRAME are untouched. -/
def Obligations.ExecCompletes : Prop :=
  ∀ (opc : Word) (s : State), ∃ t, exec (.exec opc) s = .next t ∧
    t = { s with phase := .tx, lOp := 3, lOpc := opc, lNw := 0, lAddr := s.busAddr, lSettle := t.lSettle,
                 lTxLen := 2, frame := t.frame } ∧
    t.lSettle.toNat = max s.settle.toNat 20 ∧
    txFrame t = [opc.extractLsb' 8 8, opc.extractLsb' 0 8] ∧
    (∀ k : Fin frameCapacity, 2 ≤ k.val → t.frame.get k = s.frame.get k)

/-- R160, R141: a READ of 1 to 16 words completes its accept step exactly as an EXEC does, its word count latched. -/
def Obligations.ReadCompletes : Prop :=
  ∀ (opc : Word) (nw : BitVec 6) (s : State), 1 ≤ nw.toNat → nw.toNat ≤ 16 →
    ∃ t, exec (.read opc nw) s = .next t ∧
      t = { s with phase := .tx, lOp := 5, lOpc := opc, lNw := nw, lAddr := s.busAddr, lSettle := t.lSettle,
                   lTxLen := 2, frame := t.frame } ∧
      t.lSettle.toNat = max s.settle.toNat 20 ∧
      txFrame t = [opc.extractLsb' 8 8, opc.extractLsb' 0 8] ∧
      (∀ k : Fin frameCapacity, 2 ≤ k.val → t.frame.get k = s.frame.get k)

/-- R150, R151, R141, R71: a WRITE of 1 to 16 words that hold values completes its accept step: the frame to send is
the opcode and each word with its CRC, in index order; DATA and the rest of FRAME are untouched. -/
def Obligations.WriteCompletes : Prop :=
  ∀ (opc : Word) (nw : BitVec 6) (s : State), 1 ≤ nw.toNat → nw.toNat ≤ 16 → DataHeld s nw.toNat →
    ∃ t, exec (.write opc nw) s = .next t ∧
      t = { s with phase := .tx, lOp := 4, lOpc := opc, lNw := nw, lAddr := s.busAddr, lSettle := t.lSettle,
                   lTxLen := t.lTxLen, frame := t.frame } ∧
      t.lSettle.toNat = max s.settle.toNat 20 ∧ t.lTxLen.toNat = 2 + 3 * nw.toNat ∧
      txFrame t = [opc.extractLsb' 8 8, opc.extractLsb' 0 8] ++ payload (s.data.toList.take nw.toNat) ∧
      (∀ k : Fin frameCapacity, 2 + 3 * nw.toNat ≤ k.val → t.frame.get k = s.frame.get k)

/-- R151: a WRITE that needs a word holding no value raises UNWRITTEN_DATA, sends nothing and changes no host register.
That the latches of R141, L_SETTLE with its floor of 20 among them, are loaded then and L_TXLEN is not is the model's
reading of R12, log 21; which FRAME bytes the abandoned build has placed is not claimed. -/
def Obligations.WriteOfUnwrittenDataFaults : Prop :=
  ∀ (opc : Word) (nw : BitVec 6) (s : State), 1 ≤ nw.toNat → nw.toNat ≤ 16 → ¬ DataHeld s nw.toNat →
    ∃ t, exec (.write opc nw) s = .next t ∧
      t = { s with fault := some .unwrittenData, lOp := 4, lOpc := opc, lNw := nw, lAddr := s.busAddr,
                   lSettle := t.lSettle, frame := t.frame } ∧
      t.lSettle.toNat = max s.settle.toNat 20

/-- R170: a WRITE or READ with NW = 0 or NW above 16 completes in its accept step with LENGTH_ERROR, issues no
transaction and leaves latches, FRAME and everything but CMD and STATUS alone. -/
def Obligations.BadWordCountNeverReachesTheBus : Prop :=
  ∀ (opc : Word) (nw : BitVec 6) (i : Instr) (s : State) (es : List Event),
    (i = .write opc nw ∨ i = .read opc nw) → (nw.toNat = 0 ∨ 16 < nw.toNat) → CmdWrite s (encode i) es →
    step s = .next { s with events := es, cmd := encode i, code := .lengthError, matchBit := false, unknown := false }

/-- R143: the Tx step sends the frame to the latched address as one transaction, then holds, or completes with
TRANSPORT_ERROR and no hold. -/
def Obligations.TxStepSendsTheFrame : Prop :=
  ∀ (s : State) (ok : Bool) (es : List Event), s.phase = .tx → Next s (.busWriteAnswer ok) es →
    ∃ t, step s = .next t ∧ t.bus = s.bus ++ [.busWrite s.lAddr (s.frame.toList.take s.lTxLen.toNat)] ∧
      t = { s with events := es, bus := t.bus, phase := t.phase, code := t.code } ∧
      (ok = true → t.phase = .settle ∧ t.code = s.code) ∧
      (ok = false → t.phase = .idle ∧ t.code = .transportError)

/-- R144, R256 (an early end is refused, log 5): the environment ends a hold only once L_SETTLE milliseconds have
passed; then a READ waits for its response and an EXEC or WRITE completes OK. -/
def Obligations.SettleStepEndsTheHold : Prop :=
  ∀ (s : State) (ms : Nat) (es : List Event), s.phase = .settle → Next s (.settleElapsed ms) es →
    (ms < s.lSettle.toNat → step s = .refused .holdNotElapsed) ∧
    (s.lSettle.toNat ≤ ms →
      (s.lOp = 5 → step s = .next { s with events := es, phase := .rx }) ∧
      (s.lOp ≠ 5 → step s = .next { s with events := es, phase := .idle, code := .ok }))

/-- R161 to R167: the Rx step with `3*NW` bytes: all bytes 0xFF gives READ_UNAVAILABLE, whatever the CRCs; else any
word that fails its CRC gives CRC_MISMATCH; else OK and DATA[0..NW-1] take the words, big-endian. DATA changes in no
other case and at no other index. A transport failure completes with TRANSPORT_ERROR. That the step completes the
command, with no hold after it, is this block's `POST_READ_SETTLE_MS` of 0, log 14. -/
def Obligations.RxStepValidatesAndCommits : Prop :=
  ∀ (s : State) (answer : Option (List Byte)) (es : List Event), s.phase = .rx → nwLegal params s.lNw = true →
    Next s (.busReadAnswer answer) es → (∀ r, answer = some r → r.length = 3 * s.lNw.toNat) →
    ∃ t, step s = .next t ∧ t.phase = .idle ∧ t.bus = s.bus ++ [.busRead s.lAddr (3 * s.lNw.toNat)] ∧
      t = { s with events := es, bus := t.bus, phase := .idle, code := t.code, frame := t.frame, lCode := t.lCode,
                   data := t.data, dataValid := t.dataValid } ∧
      (answer = none → t.code = .transportError) ∧
      (∀ r, answer = some r →
        (t.code = .readUnavailable ↔ ∀ b ∈ r, b = 0xFF) ∧
        (t.code = .crcMismatch ↔ (∃ b ∈ r, b ≠ 0xFF) ∧ ∃ i, i < s.lNw.toNat ∧ ¬ WordOk r i) ∧
        (t.code = .ok ↔ (∃ b ∈ r, b ≠ 0xFF) ∧ ∀ i, i < s.lNw.toNat → WordOk r i) ∧
        (t.code = .ok → ∀ i, dataWord? t i =
          if i < s.lNw.toNat then some (byte r (3 * i) ++ byte r (3 * i + 1)) else dataWord? s i)) ∧
      (t.code ≠ .ok → t.data = s.data ∧ t.dataValid = s.dataValid)

/-- R161, R168, for a block of any parameters (an early end is refused, log 5; this block's bound is 0, log 14): with a
positive `POST_READ_SETTLE_MS` the Rx step, given the bytes it asked for, enters POST with the outcome latched, which the environment ends no sooner
than the bound with that code; with 0, this block's value, POST is not entered. -/
def Obligations.PostHoldCompletesWithTheLatchedCode : Prop :=
  (∀ (p : Params) (s : State) (r : List Byte), r.length = p.wireBytes * s.lNw.toNat →
    ∃ t, rxStep p (some r) s = .next t ∧ t.lCode = validate p r ∧
      (0 < p.postReadSettleMs → t.phase = .post ∧ t.code = s.code) ∧
      (p.postReadSettleMs = 0 → t.phase = .idle ∧ t.code = validate p r)) ∧
  (∀ (p : Params) (s : State) (ms : Nat) (es : List Event), s.phase = .post → Next s (.settleElapsed ms) es →
    (p.postReadSettleMs ≤ ms → stepWith p s = .next { s with events := es, phase := .idle, code := s.lCode }) ∧
    (ms < p.postReadSettleMs → stepWith p s = .refused .holdNotElapsed))

/-- R169, with the table of log 11: what a WRITE of n words sends, less the opcode, given back to a READ of n words,
commits exactly those words with CODE = OK. That the READ is complete after its Rx step is this block's
`POST_READ_SETTLE_MS` of 0, log 14. -/
def Obligations.WriteThenReadRoundTrips : Prop :=
  ∀ (opc : Word) (nw : BitVec 6) (s t u : State) (es : List Event),
    1 ≤ nw.toNat → nw.toNat ≤ 16 → DataHeld s nw.toNat → exec (.write opc nw) s = .next t →
    u.phase = .rx → u.lNw = nw → Next u (.busReadAnswer (some ((txFrame t).drop 2))) es →
    ∃ v, step u = .next v ∧ v.phase = .idle ∧ v.code = .ok ∧
      ∀ i, i < nw.toNat → dataWord? v i = dataWord? s i

/-- R255 (log 5 for the refusal): a transport or environment step is no step in a phase that does not enable it. -/
def Obligations.StepsAreEnabledOnlyInTheirPhase : Prop :=
  ∀ (s : State) (es : List Event),
    (∀ ok, s.phase ≠ .tx → Next s (.busWriteAnswer ok) es → step s = .refused .stepNotEnabled) ∧
    (∀ a, s.phase ≠ .rx → Next s (.busReadAnswer a) es → step s = .refused .stepNotEnabled) ∧
    (∀ ms, s.phase ≠ .settle → s.phase ≠ .post → Next s (.settleElapsed ms) es →
      step s = .refused .stepNotEnabled)

/-! ## The whole machine -/

/-- R46: the invariant holds after the reset input, from any state and with any schedule. -/
def Obligations.InvariantHoldsAfterReset : Prop :=
  ∀ (s : State) (es : List Event), Inv params (resetInput params s es)

/-- R46: every step keeps the invariant, whatever the schedule and the transport's answers; a step from a state whose
fault mark is set as well (log 7). -/
def Obligations.EveryStepKeepsTheInvariant : Prop :=
  ∀ s t : State, Inv params s → step s = .next t → Inv params t

/-- R222: a failed command has made no change to DATA, RESULT, DEN, OUT or UNKMASK, and CMD holds its word. The step
that ends a command with another code than OK changes none of them, be it a later step or the CMD write; and over the
whole course of a command, from its CMD write on, they are unchanged in every state it runs through before a POST hold
and in the state it ends in with another code than OK. Steps from a marked state, and a course that goes on through a
mark, are included, as log 7 reads R44. -/
def Obligations.FailedCommandsChangeNoResults : Prop :=
  (∀ s t : State, step s = .next t → t.phase = .idle → t.code ≠ .ok →
    (s.phase ≠ .idle → SameResults s t ∧ t.cmd = s.cmd) ∧
    (∀ c es, CmdWrite s c es → SameResults s t ∧ t.cmd = c)) ∧
  (∀ (s t : State) (c : Reg) (es : List Event), CmdWrite s c es → Course s t →
    (t.phase ≠ .idle ∧ t.phase ≠ .post) ∨ (t.phase = .idle ∧ t.code ≠ .ok) →
    SameResults s t ∧ t.cmd = c)

/-- R45: what the CMD write of a command leaves alone. No command's accept step writes DATA, SETTLE, BUSADDR or the
bus; RESULT is written by CRC8, CRCCHK, SCALE and ROUND only, DEN by SCALE and ROUND only, OUT and UNKMASK by DECODE
only, MATCH by CRCCHK only, UNKNOWN by SENT, SCALE, ROUND and DECODE only, FRAME and the latches by EXEC, WRITE and
READ only. -/
def Obligations.CommandsWriteOnlyTheirRegisters : Prop :=
  ∀ (s t : State) (i : Instr) (es : List Event), CmdWrite s (encode i) es → step s = .next t →
    t.cmd = encode i ∧ t.events = es ∧ t.data = s.data ∧ t.dataValid = s.dataValid ∧ t.settle = s.settle ∧
    t.busAddr = s.busAddr ∧ t.bus = s.bus ∧ t.observed = s.observed ∧ t.draws = s.draws ∧ t.lCode = s.lCode ∧
    ((∀ a b, i ≠ .crc8 a b) → (∀ a b c, i ≠ .crcchk a b c) → (∀ a b, i ≠ .scale a b) → (∀ a b, i ≠ .roundMetric a b) →
      (∀ a b, i ≠ .roundImperial a b) → t.result = s.result) ∧
    ((∀ a b, i ≠ .scale a b) → (∀ a b, i ≠ .roundMetric a b) → (∀ a b, i ≠ .roundImperial a b) → t.den = s.den) ∧
    ((∀ m, i ≠ decodeOf m) → t.out = s.out ∧ t.unkMask = s.unkMask) ∧
    ((∀ a b c, i ≠ .crcchk a b c) → t.matchBit = false) ∧
    ((∀ a, i ≠ .sent a) → (∀ a b, i ≠ .scale a b) → (∀ a b, i ≠ .roundMetric a b) → (∀ a b, i ≠ .roundImperial a b) →
      (∀ m, i ≠ decodeOf m) → t.unknown = false) ∧
    ((∀ a, i ≠ .exec a) → (∀ a b, i ≠ .write a b) → (∀ a b, i ≠ .read a b) →
      t.frame = s.frame ∧ t.phase = .idle ∧ t.lOp = s.lOp ∧ t.lOpc = s.lOpc ∧ t.lNw = s.lNw ∧ t.lAddr = s.lAddr ∧
      t.lSettle = s.lSettle ∧ t.lTxLen = s.lTxLen)

/-- R78, R71, R81: a step issues at most one transaction, and only a frame of R71's lengths in TX or a read of `3*NW`
bytes in RX, with NW from 1 to 16. -/
def Obligations.OnlyFramesOfR71ReachTheBus : Prop :=
  ∀ s t : State, s.fault = none → Inv params s → step s = .next t →
    t.bus = s.bus ∨
    (∃ bytes, s.phase = .tx ∧ t.bus = s.bus ++ [.busWrite s.lAddr bytes] ∧
      ((s.lOp ≠ 4 ∧ bytes.length = 2) ∨
        (s.lOp = 4 ∧ bytes.length = 2 + 3 * s.lNw.toNat ∧ 1 ≤ s.lNw.toNat ∧ s.lNw.toNat ≤ 16))) ∨
    (s.phase = .rx ∧ t.bus = s.bus ++ [.busRead s.lAddr (3 * s.lNw.toNat)] ∧ 1 ≤ s.lNw.toNat ∧ s.lNw.toNat ≤ 16)

/-- R42, R81, R28: while a command runs, no step changes CMD, SETTLE, BUSADDR or a latch but L_CODE, which the Rx step
writes; so no command is accepted in another's time. -/
def Obligations.RunningCommandKeepsItsLatches : Prop :=
  ∀ s t : State, s.fault = none → s.phase ≠ .idle → step s = .next t →
    t.cmd = s.cmd ∧ t.lOp = s.lOp ∧ t.lOpc = s.lOpc ∧ t.lNw = s.lNw ∧ t.lAddr = s.lAddr ∧ t.lSettle = s.lSettle ∧
    t.lTxLen = s.lTxLen ∧ t.settle = s.settle ∧ t.busAddr = s.busAddr ∧ (s.phase ≠ .rx → t.lCode = s.lCode)

/-- R30, R41, R42, R142 (U10, U11): what FRAME, the latches and the unwritten DATA words hold where the spec gives no
value can never be told: two states that agree on everything else keep agreeing, marked states too (log 7), and a step
that is refused is refused in both (log 5). -/
def Obligations.UnspecifiedContentIsNeverObserved : Prop :=
  ∀ s t : State, Indistinguishable s t →
    (∃ s' t', step s = .next s' ∧ step t = .next t' ∧ Indistinguishable s' t') ∨
    (∃ r, step s = .refused r ∧ step t = .refused r)

/-- R143, R144, R161, R256: a running command ends within three steps, whatever the transport answers. That with nothing
scheduled the enabled step is taken with a free answer is the model's form of R256's fairness, log 6; that three are
enough rests on this block's `POST_READ_SETTLE_MS` of 0, log 14: a positive bound makes a fourth. -/
def Obligations.UnscheduledCommandEndsInThreeSteps : Prop :=
  ∀ s : State, s.fault = none → s.events = [] → s.phase ≠ .idle →
    ∃ a b t : State, step s = .next a ∧ step a = .next b ∧ step b = .next t ∧ t.phase = .idle ∧ t.fault = none

/-- R141, R144, R256, D10: no scheduled step ends a hold before 20 ms, whatever SETTLE was written. The step a hold ends
by with nothing scheduled carries no time, log 20, and is not claimed. -/
def Obligations.NoHoldEndsBeforeTheFloor : Prop :=
  ∀ (s t : State) (ms : Nat) (es : List Event), Inv params s → s.phase = .settle → Next s (.settleElapsed ms) es →
    step s = .next t → 20 ≤ ms

/-- R44 (the hardware has no such bit; that a marked state steps on is log 7): the fault mark changes nothing of what a
step does. A state steps as the same state with any other mark does, the two next states agree on all but the mark, and
a step that is refused is refused with every mark. -/
def Obligations.FaultMarkChangesNoBehaviour : Prop :=
  ∀ (s : State) (f : Option FaultReason),
    (∀ t, step s = .next t → ∃ g, step { s with fault := f } = .next { t with fault := g }) ∧
    (∀ r, step s = .refused r → step { s with fault := f } = .refused r)

/-- R6, R7, R94, R100, R141, R151 (log 21 for the latches of a marked WRITE): a block of other legal parameters keeps
its own limits: its WRITE and READ complete with LENGTH_ERROR exactly for a count of 0 or above its MAX_WORDS. With any
other count both latch the count and their hold with the block's own MIN_SETTLE_MS as the floor, and wait for the
transport, a WRITE of a word that holds no value raising UNWRITTEN_DATA instead. The block of R6 runs its commands as
`exec` says. -/
def Obligations.EveryBlockKeepsItsOwnLimits : Prop :=
  (∀ (i : Instr) (s : State), run params i s = exec i s) ∧
  (∀ (p : Params), p.Legal → ∀ (opc : Word) (nw : BitVec 6) (s : State),
    (nw.toNat = 0 ∨ p.maxWords < nw.toNat →
      run p (.write opc nw) s = .next { s with phase := .idle, code := .lengthError } ∧
      run p (.read opc nw) s = .next { s with phase := .idle, code := .lengthError }) ∧
    (1 ≤ nw.toNat → nw.toNat ≤ p.maxWords →
      (∃ t, run p (.read opc nw) s = .next t ∧ t.phase = .tx ∧ t.code = s.code ∧ t.lNw = nw ∧
        t.lSettle.toNat = max s.settle.toNat p.minSettleMs) ∧
      (∃ t, run p (.write opc nw) s = .next t ∧ t.code = s.code ∧ t.lNw = nw ∧
        t.lSettle.toNat = max s.settle.toNat p.minSettleMs ∧
        (DataHeld s nw.toNat → t.phase = .tx ∧ t.fault = s.fault) ∧
        (¬ DataHeld s nw.toNat → t.phase = s.phase ∧ t.fault = some .unwrittenData))))
end

