-- ==== Sys2Proof/Laws/State.lean ====
section
/-! SUPPORT. What each update of the state does to each field, one lemma per field, so that no proof unfolds an update. -/

namespace Sys2Proof.Machine

variable (s : State)

/-! `complete` -/

@[simp] theorem complete_cmd (c : Code) : (complete c s).cmd = s.cmd := rfl
@[simp] theorem complete_phase (c : Code) : (complete c s).phase = .idle := rfl
@[simp] theorem complete_code (c : Code) : (complete c s).code = c := rfl
@[simp] theorem complete_matchBit (c : Code) : (complete c s).matchBit = s.matchBit := rfl
@[simp] theorem complete_unknown (c : Code) : (complete c s).unknown = s.unknown := rfl
@[simp] theorem complete_result (c : Code) : (complete c s).result = s.result := rfl
@[simp] theorem complete_den (c : Code) : (complete c s).den = s.den := rfl
@[simp] theorem complete_settle (c : Code) : (complete c s).settle = s.settle := rfl
@[simp] theorem complete_busAddr (c : Code) : (complete c s).busAddr = s.busAddr := rfl
@[simp] theorem complete_unkMask (c : Code) : (complete c s).unkMask = s.unkMask := rfl
@[simp] theorem complete_out (c : Code) : (complete c s).out = s.out := rfl
@[simp] theorem complete_data (c : Code) : (complete c s).data = s.data := rfl
@[simp] theorem complete_dataValid (c : Code) : (complete c s).dataValid = s.dataValid := rfl
@[simp] theorem complete_frame (c : Code) : (complete c s).frame = s.frame := rfl
@[simp] theorem complete_lOp (c : Code) : (complete c s).lOp = s.lOp := rfl
@[simp] theorem complete_lOpc (c : Code) : (complete c s).lOpc = s.lOpc := rfl
@[simp] theorem complete_lNw (c : Code) : (complete c s).lNw = s.lNw := rfl
@[simp] theorem complete_lAddr (c : Code) : (complete c s).lAddr = s.lAddr := rfl
@[simp] theorem complete_lSettle (c : Code) : (complete c s).lSettle = s.lSettle := rfl
@[simp] theorem complete_lTxLen (c : Code) : (complete c s).lTxLen = s.lTxLen := rfl
@[simp] theorem complete_lCode (c : Code) : (complete c s).lCode = s.lCode := rfl
@[simp] theorem complete_fault (c : Code) : (complete c s).fault = s.fault := rfl
@[simp] theorem complete_events (c : Code) : (complete c s).events = s.events := rfl
@[simp] theorem complete_bus (c : Code) : (complete c s).bus = s.bus := rfl
@[simp] theorem complete_observed (c : Code) : (complete c s).observed = s.observed := rfl
@[simp] theorem complete_draws (c : Code) : (complete c s).draws = s.draws := rfl

/-! `raiseFault` -/

@[simp] theorem raiseFault_cmd (r : FaultReason) : (raiseFault r s).cmd = s.cmd := rfl
@[simp] theorem raiseFault_phase (r : FaultReason) : (raiseFault r s).phase = s.phase := rfl
@[simp] theorem raiseFault_code (r : FaultReason) : (raiseFault r s).code = s.code := rfl
@[simp] theorem raiseFault_matchBit (r : FaultReason) : (raiseFault r s).matchBit = s.matchBit := rfl
@[simp] theorem raiseFault_unknown (r : FaultReason) : (raiseFault r s).unknown = s.unknown := rfl
@[simp] theorem raiseFault_result (r : FaultReason) : (raiseFault r s).result = s.result := rfl
@[simp] theorem raiseFault_den (r : FaultReason) : (raiseFault r s).den = s.den := rfl
@[simp] theorem raiseFault_settle (r : FaultReason) : (raiseFault r s).settle = s.settle := rfl
@[simp] theorem raiseFault_busAddr (r : FaultReason) : (raiseFault r s).busAddr = s.busAddr := rfl
@[simp] theorem raiseFault_unkMask (r : FaultReason) : (raiseFault r s).unkMask = s.unkMask := rfl
@[simp] theorem raiseFault_out (r : FaultReason) : (raiseFault r s).out = s.out := rfl
@[simp] theorem raiseFault_data (r : FaultReason) : (raiseFault r s).data = s.data := rfl
@[simp] theorem raiseFault_dataValid (r : FaultReason) : (raiseFault r s).dataValid = s.dataValid := rfl
@[simp] theorem raiseFault_frame (r : FaultReason) : (raiseFault r s).frame = s.frame := rfl
@[simp] theorem raiseFault_lOp (r : FaultReason) : (raiseFault r s).lOp = s.lOp := rfl
@[simp] theorem raiseFault_lOpc (r : FaultReason) : (raiseFault r s).lOpc = s.lOpc := rfl
@[simp] theorem raiseFault_lNw (r : FaultReason) : (raiseFault r s).lNw = s.lNw := rfl
@[simp] theorem raiseFault_lAddr (r : FaultReason) : (raiseFault r s).lAddr = s.lAddr := rfl
@[simp] theorem raiseFault_lSettle (r : FaultReason) : (raiseFault r s).lSettle = s.lSettle := rfl
@[simp] theorem raiseFault_lTxLen (r : FaultReason) : (raiseFault r s).lTxLen = s.lTxLen := rfl
@[simp] theorem raiseFault_lCode (r : FaultReason) : (raiseFault r s).lCode = s.lCode := rfl
@[simp] theorem raiseFault_fault (r : FaultReason) : (raiseFault r s).fault = some r := rfl
@[simp] theorem raiseFault_events (r : FaultReason) : (raiseFault r s).events = s.events := rfl
@[simp] theorem raiseFault_bus (r : FaultReason) : (raiseFault r s).bus = s.bus := rfl
@[simp] theorem raiseFault_observed (r : FaultReason) : (raiseFault r s).observed = s.observed := rfl
@[simp] theorem raiseFault_draws (r : FaultReason) : (raiseFault r s).draws = s.draws := rfl

/-! `acceptWord` -/

@[simp] theorem acceptWord_cmd (c : Reg) : (acceptWord c s).cmd = c := rfl
@[simp] theorem acceptWord_phase (c : Reg) : (acceptWord c s).phase = s.phase := rfl
@[simp] theorem acceptWord_code (c : Reg) : (acceptWord c s).code = .ok := rfl
@[simp] theorem acceptWord_matchBit (c : Reg) : (acceptWord c s).matchBit = false := rfl
@[simp] theorem acceptWord_unknown (c : Reg) : (acceptWord c s).unknown = false := rfl
@[simp] theorem acceptWord_result (c : Reg) : (acceptWord c s).result = s.result := rfl
@[simp] theorem acceptWord_den (c : Reg) : (acceptWord c s).den = s.den := rfl
@[simp] theorem acceptWord_settle (c : Reg) : (acceptWord c s).settle = s.settle := rfl
@[simp] theorem acceptWord_busAddr (c : Reg) : (acceptWord c s).busAddr = s.busAddr := rfl
@[simp] theorem acceptWord_unkMask (c : Reg) : (acceptWord c s).unkMask = s.unkMask := rfl
@[simp] theorem acceptWord_out (c : Reg) : (acceptWord c s).out = s.out := rfl
@[simp] theorem acceptWord_data (c : Reg) : (acceptWord c s).data = s.data := rfl
@[simp] theorem acceptWord_dataValid (c : Reg) : (acceptWord c s).dataValid = s.dataValid := rfl
@[simp] theorem acceptWord_frame (c : Reg) : (acceptWord c s).frame = s.frame := rfl
@[simp] theorem acceptWord_lOp (c : Reg) : (acceptWord c s).lOp = s.lOp := rfl
@[simp] theorem acceptWord_lOpc (c : Reg) : (acceptWord c s).lOpc = s.lOpc := rfl
@[simp] theorem acceptWord_lNw (c : Reg) : (acceptWord c s).lNw = s.lNw := rfl
@[simp] theorem acceptWord_lAddr (c : Reg) : (acceptWord c s).lAddr = s.lAddr := rfl
@[simp] theorem acceptWord_lSettle (c : Reg) : (acceptWord c s).lSettle = s.lSettle := rfl
@[simp] theorem acceptWord_lTxLen (c : Reg) : (acceptWord c s).lTxLen = s.lTxLen := rfl
@[simp] theorem acceptWord_lCode (c : Reg) : (acceptWord c s).lCode = s.lCode := rfl
@[simp] theorem acceptWord_fault (c : Reg) : (acceptWord c s).fault = s.fault := rfl
@[simp] theorem acceptWord_events (c : Reg) : (acceptWord c s).events = s.events := rfl
@[simp] theorem acceptWord_bus (c : Reg) : (acceptWord c s).bus = s.bus := rfl
@[simp] theorem acceptWord_observed (c : Reg) : (acceptWord c s).observed = s.observed := rfl
@[simp] theorem acceptWord_draws (c : Reg) : (acceptWord c s).draws = s.draws := rfl

/-! `setResultByte` -/

@[simp] theorem setResultByte_cmd (b : Byte) : (setResultByte b s).cmd = s.cmd := rfl
@[simp] theorem setResultByte_phase (b : Byte) : (setResultByte b s).phase = s.phase := rfl
@[simp] theorem setResultByte_code (b : Byte) : (setResultByte b s).code = s.code := rfl
@[simp] theorem setResultByte_matchBit (b : Byte) : (setResultByte b s).matchBit = s.matchBit := rfl
@[simp] theorem setResultByte_unknown (b : Byte) : (setResultByte b s).unknown = s.unknown := rfl
@[simp] theorem setResultByte_result (b : Byte) : (setResultByte b s).result = b.setWidth 32 := rfl
@[simp] theorem setResultByte_den (b : Byte) : (setResultByte b s).den = s.den := rfl
@[simp] theorem setResultByte_settle (b : Byte) : (setResultByte b s).settle = s.settle := rfl
@[simp] theorem setResultByte_busAddr (b : Byte) : (setResultByte b s).busAddr = s.busAddr := rfl
@[simp] theorem setResultByte_unkMask (b : Byte) : (setResultByte b s).unkMask = s.unkMask := rfl
@[simp] theorem setResultByte_out (b : Byte) : (setResultByte b s).out = s.out := rfl
@[simp] theorem setResultByte_data (b : Byte) : (setResultByte b s).data = s.data := rfl
@[simp] theorem setResultByte_dataValid (b : Byte) : (setResultByte b s).dataValid = s.dataValid := rfl
@[simp] theorem setResultByte_frame (b : Byte) : (setResultByte b s).frame = s.frame := rfl
@[simp] theorem setResultByte_lOp (b : Byte) : (setResultByte b s).lOp = s.lOp := rfl
@[simp] theorem setResultByte_lOpc (b : Byte) : (setResultByte b s).lOpc = s.lOpc := rfl
@[simp] theorem setResultByte_lNw (b : Byte) : (setResultByte b s).lNw = s.lNw := rfl
@[simp] theorem setResultByte_lAddr (b : Byte) : (setResultByte b s).lAddr = s.lAddr := rfl
@[simp] theorem setResultByte_lSettle (b : Byte) : (setResultByte b s).lSettle = s.lSettle := rfl
@[simp] theorem setResultByte_lTxLen (b : Byte) : (setResultByte b s).lTxLen = s.lTxLen := rfl
@[simp] theorem setResultByte_lCode (b : Byte) : (setResultByte b s).lCode = s.lCode := rfl
@[simp] theorem setResultByte_fault (b : Byte) : (setResultByte b s).fault = s.fault := rfl
@[simp] theorem setResultByte_events (b : Byte) : (setResultByte b s).events = s.events := rfl
@[simp] theorem setResultByte_bus (b : Byte) : (setResultByte b s).bus = s.bus := rfl
@[simp] theorem setResultByte_observed (b : Byte) : (setResultByte b s).observed = s.observed := rfl
@[simp] theorem setResultByte_draws (b : Byte) : (setResultByte b s).draws = s.draws := rfl

/-! `setQuantity` -/

@[simp] theorem setQuantity_cmd (u : Bool) (n : Int) (d : Nat) : (setQuantity u n d s).cmd = s.cmd := rfl
@[simp] theorem setQuantity_phase (u : Bool) (n : Int) (d : Nat) : (setQuantity u n d s).phase = s.phase := rfl
@[simp] theorem setQuantity_code (u : Bool) (n : Int) (d : Nat) : (setQuantity u n d s).code = s.code := rfl
@[simp] theorem setQuantity_matchBit (u : Bool) (n : Int) (d : Nat) : (setQuantity u n d s).matchBit = s.matchBit := rfl
@[simp] theorem setQuantity_unknown (u : Bool) (n : Int) (d : Nat) : (setQuantity u n d s).unknown = u := rfl
@[simp] theorem setQuantity_result (u : Bool) (n : Int) (d : Nat) : (setQuantity u n d s).result = BitVec.ofInt 32 n := rfl
@[simp] theorem setQuantity_den (u : Bool) (n : Int) (d : Nat) : (setQuantity u n d s).den = BitVec.ofNat 32 d := rfl
@[simp] theorem setQuantity_settle (u : Bool) (n : Int) (d : Nat) : (setQuantity u n d s).settle = s.settle := rfl
@[simp] theorem setQuantity_busAddr (u : Bool) (n : Int) (d : Nat) : (setQuantity u n d s).busAddr = s.busAddr := rfl
@[simp] theorem setQuantity_unkMask (u : Bool) (n : Int) (d : Nat) : (setQuantity u n d s).unkMask = s.unkMask := rfl
@[simp] theorem setQuantity_out (u : Bool) (n : Int) (d : Nat) : (setQuantity u n d s).out = s.out := rfl
@[simp] theorem setQuantity_data (u : Bool) (n : Int) (d : Nat) : (setQuantity u n d s).data = s.data := rfl
@[simp] theorem setQuantity_dataValid (u : Bool) (n : Int) (d : Nat) : (setQuantity u n d s).dataValid = s.dataValid := rfl
@[simp] theorem setQuantity_frame (u : Bool) (n : Int) (d : Nat) : (setQuantity u n d s).frame = s.frame := rfl
@[simp] theorem setQuantity_lOp (u : Bool) (n : Int) (d : Nat) : (setQuantity u n d s).lOp = s.lOp := rfl
@[simp] theorem setQuantity_lOpc (u : Bool) (n : Int) (d : Nat) : (setQuantity u n d s).lOpc = s.lOpc := rfl
@[simp] theorem setQuantity_lNw (u : Bool) (n : Int) (d : Nat) : (setQuantity u n d s).lNw = s.lNw := rfl
@[simp] theorem setQuantity_lAddr (u : Bool) (n : Int) (d : Nat) : (setQuantity u n d s).lAddr = s.lAddr := rfl
@[simp] theorem setQuantity_lSettle (u : Bool) (n : Int) (d : Nat) : (setQuantity u n d s).lSettle = s.lSettle := rfl
@[simp] theorem setQuantity_lTxLen (u : Bool) (n : Int) (d : Nat) : (setQuantity u n d s).lTxLen = s.lTxLen := rfl
@[simp] theorem setQuantity_lCode (u : Bool) (n : Int) (d : Nat) : (setQuantity u n d s).lCode = s.lCode := rfl
@[simp] theorem setQuantity_fault (u : Bool) (n : Int) (d : Nat) : (setQuantity u n d s).fault = s.fault := rfl
@[simp] theorem setQuantity_events (u : Bool) (n : Int) (d : Nat) : (setQuantity u n d s).events = s.events := rfl
@[simp] theorem setQuantity_bus (u : Bool) (n : Int) (d : Nat) : (setQuantity u n d s).bus = s.bus := rfl
@[simp] theorem setQuantity_observed (u : Bool) (n : Int) (d : Nat) : (setQuantity u n d s).observed = s.observed := rfl
@[simp] theorem setQuantity_draws (u : Bool) (n : Int) (d : Nat) : (setQuantity u n d s).draws = s.draws := rfl

/-! `setMatch` -/

@[simp] theorem setMatch_cmd (b : Bool) : (setMatch b s).cmd = s.cmd := rfl
@[simp] theorem setMatch_phase (b : Bool) : (setMatch b s).phase = s.phase := rfl
@[simp] theorem setMatch_code (b : Bool) : (setMatch b s).code = s.code := rfl
@[simp] theorem setMatch_matchBit (b : Bool) : (setMatch b s).matchBit = b := rfl
@[simp] theorem setMatch_unknown (b : Bool) : (setMatch b s).unknown = s.unknown := rfl
@[simp] theorem setMatch_result (b : Bool) : (setMatch b s).result = s.result := rfl
@[simp] theorem setMatch_den (b : Bool) : (setMatch b s).den = s.den := rfl
@[simp] theorem setMatch_settle (b : Bool) : (setMatch b s).settle = s.settle := rfl
@[simp] theorem setMatch_busAddr (b : Bool) : (setMatch b s).busAddr = s.busAddr := rfl
@[simp] theorem setMatch_unkMask (b : Bool) : (setMatch b s).unkMask = s.unkMask := rfl
@[simp] theorem setMatch_out (b : Bool) : (setMatch b s).out = s.out := rfl
@[simp] theorem setMatch_data (b : Bool) : (setMatch b s).data = s.data := rfl
@[simp] theorem setMatch_dataValid (b : Bool) : (setMatch b s).dataValid = s.dataValid := rfl
@[simp] theorem setMatch_frame (b : Bool) : (setMatch b s).frame = s.frame := rfl
@[simp] theorem setMatch_lOp (b : Bool) : (setMatch b s).lOp = s.lOp := rfl
@[simp] theorem setMatch_lOpc (b : Bool) : (setMatch b s).lOpc = s.lOpc := rfl
@[simp] theorem setMatch_lNw (b : Bool) : (setMatch b s).lNw = s.lNw := rfl
@[simp] theorem setMatch_lAddr (b : Bool) : (setMatch b s).lAddr = s.lAddr := rfl
@[simp] theorem setMatch_lSettle (b : Bool) : (setMatch b s).lSettle = s.lSettle := rfl
@[simp] theorem setMatch_lTxLen (b : Bool) : (setMatch b s).lTxLen = s.lTxLen := rfl
@[simp] theorem setMatch_lCode (b : Bool) : (setMatch b s).lCode = s.lCode := rfl
@[simp] theorem setMatch_fault (b : Bool) : (setMatch b s).fault = s.fault := rfl
@[simp] theorem setMatch_events (b : Bool) : (setMatch b s).events = s.events := rfl
@[simp] theorem setMatch_bus (b : Bool) : (setMatch b s).bus = s.bus := rfl
@[simp] theorem setMatch_observed (b : Bool) : (setMatch b s).observed = s.observed := rfl
@[simp] theorem setMatch_draws (b : Bool) : (setMatch b s).draws = s.draws := rfl

/-! `setUnknown` -/

@[simp] theorem setUnknown_cmd (b : Bool) : (setUnknown b s).cmd = s.cmd := rfl
@[simp] theorem setUnknown_phase (b : Bool) : (setUnknown b s).phase = s.phase := rfl
@[simp] theorem setUnknown_code (b : Bool) : (setUnknown b s).code = s.code := rfl
@[simp] theorem setUnknown_matchBit (b : Bool) : (setUnknown b s).matchBit = s.matchBit := rfl
@[simp] theorem setUnknown_unknown (b : Bool) : (setUnknown b s).unknown = b := rfl
@[simp] theorem setUnknown_result (b : Bool) : (setUnknown b s).result = s.result := rfl
@[simp] theorem setUnknown_den (b : Bool) : (setUnknown b s).den = s.den := rfl
@[simp] theorem setUnknown_settle (b : Bool) : (setUnknown b s).settle = s.settle := rfl
@[simp] theorem setUnknown_busAddr (b : Bool) : (setUnknown b s).busAddr = s.busAddr := rfl
@[simp] theorem setUnknown_unkMask (b : Bool) : (setUnknown b s).unkMask = s.unkMask := rfl
@[simp] theorem setUnknown_out (b : Bool) : (setUnknown b s).out = s.out := rfl
@[simp] theorem setUnknown_data (b : Bool) : (setUnknown b s).data = s.data := rfl
@[simp] theorem setUnknown_dataValid (b : Bool) : (setUnknown b s).dataValid = s.dataValid := rfl
@[simp] theorem setUnknown_frame (b : Bool) : (setUnknown b s).frame = s.frame := rfl
@[simp] theorem setUnknown_lOp (b : Bool) : (setUnknown b s).lOp = s.lOp := rfl
@[simp] theorem setUnknown_lOpc (b : Bool) : (setUnknown b s).lOpc = s.lOpc := rfl
@[simp] theorem setUnknown_lNw (b : Bool) : (setUnknown b s).lNw = s.lNw := rfl
@[simp] theorem setUnknown_lAddr (b : Bool) : (setUnknown b s).lAddr = s.lAddr := rfl
@[simp] theorem setUnknown_lSettle (b : Bool) : (setUnknown b s).lSettle = s.lSettle := rfl
@[simp] theorem setUnknown_lTxLen (b : Bool) : (setUnknown b s).lTxLen = s.lTxLen := rfl
@[simp] theorem setUnknown_lCode (b : Bool) : (setUnknown b s).lCode = s.lCode := rfl
@[simp] theorem setUnknown_fault (b : Bool) : (setUnknown b s).fault = s.fault := rfl
@[simp] theorem setUnknown_events (b : Bool) : (setUnknown b s).events = s.events := rfl
@[simp] theorem setUnknown_bus (b : Bool) : (setUnknown b s).bus = s.bus := rfl
@[simp] theorem setUnknown_observed (b : Bool) : (setUnknown b s).observed = s.observed := rfl
@[simp] theorem setUnknown_draws (b : Bool) : (setUnknown b s).draws = s.draws := rfl

/-! `writeData` -/

@[simp] theorem writeData_cmd (i : Nat) (w : Word) : (writeData i w s).cmd = s.cmd := rfl
@[simp] theorem writeData_phase (i : Nat) (w : Word) : (writeData i w s).phase = s.phase := rfl
@[simp] theorem writeData_code (i : Nat) (w : Word) : (writeData i w s).code = s.code := rfl
@[simp] theorem writeData_matchBit (i : Nat) (w : Word) : (writeData i w s).matchBit = s.matchBit := rfl
@[simp] theorem writeData_unknown (i : Nat) (w : Word) : (writeData i w s).unknown = s.unknown := rfl
@[simp] theorem writeData_result (i : Nat) (w : Word) : (writeData i w s).result = s.result := rfl
@[simp] theorem writeData_den (i : Nat) (w : Word) : (writeData i w s).den = s.den := rfl
@[simp] theorem writeData_settle (i : Nat) (w : Word) : (writeData i w s).settle = s.settle := rfl
@[simp] theorem writeData_busAddr (i : Nat) (w : Word) : (writeData i w s).busAddr = s.busAddr := rfl
@[simp] theorem writeData_unkMask (i : Nat) (w : Word) : (writeData i w s).unkMask = s.unkMask := rfl
@[simp] theorem writeData_out (i : Nat) (w : Word) : (writeData i w s).out = s.out := rfl
@[simp] theorem writeData_data (i : Nat) (w : Word) : (writeData i w s).data = putAt i w s.data := rfl
@[simp] theorem writeData_dataValid (i : Nat) (w : Word) : (writeData i w s).dataValid = putAt i true s.dataValid := rfl
@[simp] theorem writeData_frame (i : Nat) (w : Word) : (writeData i w s).frame = s.frame := rfl
@[simp] theorem writeData_lOp (i : Nat) (w : Word) : (writeData i w s).lOp = s.lOp := rfl
@[simp] theorem writeData_lOpc (i : Nat) (w : Word) : (writeData i w s).lOpc = s.lOpc := rfl
@[simp] theorem writeData_lNw (i : Nat) (w : Word) : (writeData i w s).lNw = s.lNw := rfl
@[simp] theorem writeData_lAddr (i : Nat) (w : Word) : (writeData i w s).lAddr = s.lAddr := rfl
@[simp] theorem writeData_lSettle (i : Nat) (w : Word) : (writeData i w s).lSettle = s.lSettle := rfl
@[simp] theorem writeData_lTxLen (i : Nat) (w : Word) : (writeData i w s).lTxLen = s.lTxLen := rfl
@[simp] theorem writeData_lCode (i : Nat) (w : Word) : (writeData i w s).lCode = s.lCode := rfl
@[simp] theorem writeData_fault (i : Nat) (w : Word) : (writeData i w s).fault = s.fault := rfl
@[simp] theorem writeData_events (i : Nat) (w : Word) : (writeData i w s).events = s.events := rfl
@[simp] theorem writeData_bus (i : Nat) (w : Word) : (writeData i w s).bus = s.bus := rfl
@[simp] theorem writeData_observed (i : Nat) (w : Word) : (writeData i w s).observed = s.observed := rfl
@[simp] theorem writeData_draws (i : Nat) (w : Word) : (writeData i w s).draws = s.draws := rfl

/-! `issue` -/

@[simp] theorem issue_cmd (t : BusTxn) : (issue t s).cmd = s.cmd := rfl
@[simp] theorem issue_phase (t : BusTxn) : (issue t s).phase = s.phase := rfl
@[simp] theorem issue_code (t : BusTxn) : (issue t s).code = s.code := rfl
@[simp] theorem issue_matchBit (t : BusTxn) : (issue t s).matchBit = s.matchBit := rfl
@[simp] theorem issue_unknown (t : BusTxn) : (issue t s).unknown = s.unknown := rfl
@[simp] theorem issue_result (t : BusTxn) : (issue t s).result = s.result := rfl
@[simp] theorem issue_den (t : BusTxn) : (issue t s).den = s.den := rfl
@[simp] theorem issue_settle (t : BusTxn) : (issue t s).settle = s.settle := rfl
@[simp] theorem issue_busAddr (t : BusTxn) : (issue t s).busAddr = s.busAddr := rfl
@[simp] theorem issue_unkMask (t : BusTxn) : (issue t s).unkMask = s.unkMask := rfl
@[simp] theorem issue_out (t : BusTxn) : (issue t s).out = s.out := rfl
@[simp] theorem issue_data (t : BusTxn) : (issue t s).data = s.data := rfl
@[simp] theorem issue_dataValid (t : BusTxn) : (issue t s).dataValid = s.dataValid := rfl
@[simp] theorem issue_frame (t : BusTxn) : (issue t s).frame = s.frame := rfl
@[simp] theorem issue_lOp (t : BusTxn) : (issue t s).lOp = s.lOp := rfl
@[simp] theorem issue_lOpc (t : BusTxn) : (issue t s).lOpc = s.lOpc := rfl
@[simp] theorem issue_lNw (t : BusTxn) : (issue t s).lNw = s.lNw := rfl
@[simp] theorem issue_lAddr (t : BusTxn) : (issue t s).lAddr = s.lAddr := rfl
@[simp] theorem issue_lSettle (t : BusTxn) : (issue t s).lSettle = s.lSettle := rfl
@[simp] theorem issue_lTxLen (t : BusTxn) : (issue t s).lTxLen = s.lTxLen := rfl
@[simp] theorem issue_lCode (t : BusTxn) : (issue t s).lCode = s.lCode := rfl
@[simp] theorem issue_fault (t : BusTxn) : (issue t s).fault = s.fault := rfl
@[simp] theorem issue_events (t : BusTxn) : (issue t s).events = s.events := rfl
@[simp] theorem issue_bus (t : BusTxn) : (issue t s).bus = s.bus ++ [t] := rfl
@[simp] theorem issue_observed (t : BusTxn) : (issue t s).observed = s.observed := rfl
@[simp] theorem issue_draws (t : BusTxn) : (issue t s).draws = s.draws := rfl

/-! `observe` -/

@[simp] theorem observe_cmd (v : Reg) : (observe v s).cmd = s.cmd := rfl
@[simp] theorem observe_phase (v : Reg) : (observe v s).phase = s.phase := rfl
@[simp] theorem observe_code (v : Reg) : (observe v s).code = s.code := rfl
@[simp] theorem observe_matchBit (v : Reg) : (observe v s).matchBit = s.matchBit := rfl
@[simp] theorem observe_unknown (v : Reg) : (observe v s).unknown = s.unknown := rfl
@[simp] theorem observe_result (v : Reg) : (observe v s).result = s.result := rfl
@[simp] theorem observe_den (v : Reg) : (observe v s).den = s.den := rfl
@[simp] theorem observe_settle (v : Reg) : (observe v s).settle = s.settle := rfl
@[simp] theorem observe_busAddr (v : Reg) : (observe v s).busAddr = s.busAddr := rfl
@[simp] theorem observe_unkMask (v : Reg) : (observe v s).unkMask = s.unkMask := rfl
@[simp] theorem observe_out (v : Reg) : (observe v s).out = s.out := rfl
@[simp] theorem observe_data (v : Reg) : (observe v s).data = s.data := rfl
@[simp] theorem observe_dataValid (v : Reg) : (observe v s).dataValid = s.dataValid := rfl
@[simp] theorem observe_frame (v : Reg) : (observe v s).frame = s.frame := rfl
@[simp] theorem observe_lOp (v : Reg) : (observe v s).lOp = s.lOp := rfl
@[simp] theorem observe_lOpc (v : Reg) : (observe v s).lOpc = s.lOpc := rfl
@[simp] theorem observe_lNw (v : Reg) : (observe v s).lNw = s.lNw := rfl
@[simp] theorem observe_lAddr (v : Reg) : (observe v s).lAddr = s.lAddr := rfl
@[simp] theorem observe_lSettle (v : Reg) : (observe v s).lSettle = s.lSettle := rfl
@[simp] theorem observe_lTxLen (v : Reg) : (observe v s).lTxLen = s.lTxLen := rfl
@[simp] theorem observe_lCode (v : Reg) : (observe v s).lCode = s.lCode := rfl
@[simp] theorem observe_fault (v : Reg) : (observe v s).fault = s.fault := rfl
@[simp] theorem observe_events (v : Reg) : (observe v s).events = s.events := rfl
@[simp] theorem observe_bus (v : Reg) : (observe v s).bus = s.bus := rfl
@[simp] theorem observe_observed (v : Reg) : (observe v s).observed = s.observed ++ [v] := rfl
@[simp] theorem observe_draws (v : Reg) : (observe v s).draws = s.draws := rfl

/-! `countDraw` -/

@[simp] theorem countDraw_cmd : (countDraw s).cmd = s.cmd := rfl
@[simp] theorem countDraw_phase : (countDraw s).phase = s.phase := rfl
@[simp] theorem countDraw_code : (countDraw s).code = s.code := rfl
@[simp] theorem countDraw_matchBit : (countDraw s).matchBit = s.matchBit := rfl
@[simp] theorem countDraw_unknown : (countDraw s).unknown = s.unknown := rfl
@[simp] theorem countDraw_result : (countDraw s).result = s.result := rfl
@[simp] theorem countDraw_den : (countDraw s).den = s.den := rfl
@[simp] theorem countDraw_settle : (countDraw s).settle = s.settle := rfl
@[simp] theorem countDraw_busAddr : (countDraw s).busAddr = s.busAddr := rfl
@[simp] theorem countDraw_unkMask : (countDraw s).unkMask = s.unkMask := rfl
@[simp] theorem countDraw_out : (countDraw s).out = s.out := rfl
@[simp] theorem countDraw_data : (countDraw s).data = s.data := rfl
@[simp] theorem countDraw_dataValid : (countDraw s).dataValid = s.dataValid := rfl
@[simp] theorem countDraw_frame : (countDraw s).frame = s.frame := rfl
@[simp] theorem countDraw_lOp : (countDraw s).lOp = s.lOp := rfl
@[simp] theorem countDraw_lOpc : (countDraw s).lOpc = s.lOpc := rfl
@[simp] theorem countDraw_lNw : (countDraw s).lNw = s.lNw := rfl
@[simp] theorem countDraw_lAddr : (countDraw s).lAddr = s.lAddr := rfl
@[simp] theorem countDraw_lSettle : (countDraw s).lSettle = s.lSettle := rfl
@[simp] theorem countDraw_lTxLen : (countDraw s).lTxLen = s.lTxLen := rfl
@[simp] theorem countDraw_lCode : (countDraw s).lCode = s.lCode := rfl
@[simp] theorem countDraw_fault : (countDraw s).fault = s.fault := rfl
@[simp] theorem countDraw_events : (countDraw s).events = s.events := rfl
@[simp] theorem countDraw_bus : (countDraw s).bus = s.bus := rfl
@[simp] theorem countDraw_observed : (countDraw s).observed = s.observed := rfl
@[simp] theorem countDraw_draws : (countDraw s).draws = s.draws + 1 := rfl

/-! `loadLatches` -/

@[simp] theorem loadLatches_cmd (p : Params) (op : BitVec 4) (opc : Word) (nw : BitVec 6) : (loadLatches p op opc nw s).cmd = s.cmd := rfl
@[simp] theorem loadLatches_phase (p : Params) (op : BitVec 4) (opc : Word) (nw : BitVec 6) : (loadLatches p op opc nw s).phase = s.phase := rfl
@[simp] theorem loadLatches_code (p : Params) (op : BitVec 4) (opc : Word) (nw : BitVec 6) : (loadLatches p op opc nw s).code = s.code := rfl
@[simp] theorem loadLatches_matchBit (p : Params) (op : BitVec 4) (opc : Word) (nw : BitVec 6) : (loadLatches p op opc nw s).matchBit = s.matchBit := rfl
@[simp] theorem loadLatches_unknown (p : Params) (op : BitVec 4) (opc : Word) (nw : BitVec 6) : (loadLatches p op opc nw s).unknown = s.unknown := rfl
@[simp] theorem loadLatches_result (p : Params) (op : BitVec 4) (opc : Word) (nw : BitVec 6) : (loadLatches p op opc nw s).result = s.result := rfl
@[simp] theorem loadLatches_den (p : Params) (op : BitVec 4) (opc : Word) (nw : BitVec 6) : (loadLatches p op opc nw s).den = s.den := rfl
@[simp] theorem loadLatches_settle (p : Params) (op : BitVec 4) (opc : Word) (nw : BitVec 6) : (loadLatches p op opc nw s).settle = s.settle := rfl
@[simp] theorem loadLatches_busAddr (p : Params) (op : BitVec 4) (opc : Word) (nw : BitVec 6) : (loadLatches p op opc nw s).busAddr = s.busAddr := rfl
@[simp] theorem loadLatches_unkMask (p : Params) (op : BitVec 4) (opc : Word) (nw : BitVec 6) : (loadLatches p op opc nw s).unkMask = s.unkMask := rfl
@[simp] theorem loadLatches_out (p : Params) (op : BitVec 4) (opc : Word) (nw : BitVec 6) : (loadLatches p op opc nw s).out = s.out := rfl
@[simp] theorem loadLatches_data (p : Params) (op : BitVec 4) (opc : Word) (nw : BitVec 6) : (loadLatches p op opc nw s).data = s.data := rfl
@[simp] theorem loadLatches_dataValid (p : Params) (op : BitVec 4) (opc : Word) (nw : BitVec 6) : (loadLatches p op opc nw s).dataValid = s.dataValid := rfl
@[simp] theorem loadLatches_frame (p : Params) (op : BitVec 4) (opc : Word) (nw : BitVec 6) : (loadLatches p op opc nw s).frame = putFrame 0 (opcodeBytes opc) s.frame := rfl
@[simp] theorem loadLatches_lOp (p : Params) (op : BitVec 4) (opc : Word) (nw : BitVec 6) : (loadLatches p op opc nw s).lOp = op := rfl
@[simp] theorem loadLatches_lOpc (p : Params) (op : BitVec 4) (opc : Word) (nw : BitVec 6) : (loadLatches p op opc nw s).lOpc = opc := rfl
@[simp] theorem loadLatches_lNw (p : Params) (op : BitVec 4) (opc : Word) (nw : BitVec 6) : (loadLatches p op opc nw s).lNw = nw := rfl
@[simp] theorem loadLatches_lAddr (p : Params) (op : BitVec 4) (opc : Word) (nw : BitVec 6) : (loadLatches p op opc nw s).lAddr = s.busAddr := rfl
@[simp] theorem loadLatches_lSettle (p : Params) (op : BitVec 4) (opc : Word) (nw : BitVec 6) : (loadLatches p op opc nw s).lSettle = effectiveSettle p.minSettleMs s.settle := rfl
@[simp] theorem loadLatches_lTxLen (p : Params) (op : BitVec 4) (opc : Word) (nw : BitVec 6) : (loadLatches p op opc nw s).lTxLen = s.lTxLen := rfl
@[simp] theorem loadLatches_lCode (p : Params) (op : BitVec 4) (opc : Word) (nw : BitVec 6) : (loadLatches p op opc nw s).lCode = s.lCode := rfl
@[simp] theorem loadLatches_fault (p : Params) (op : BitVec 4) (opc : Word) (nw : BitVec 6) : (loadLatches p op opc nw s).fault = s.fault := rfl
@[simp] theorem loadLatches_events (p : Params) (op : BitVec 4) (opc : Word) (nw : BitVec 6) : (loadLatches p op opc nw s).events = s.events := rfl
@[simp] theorem loadLatches_bus (p : Params) (op : BitVec 4) (opc : Word) (nw : BitVec 6) : (loadLatches p op opc nw s).bus = s.bus := rfl
@[simp] theorem loadLatches_observed (p : Params) (op : BitVec 4) (opc : Word) (nw : BitVec 6) : (loadLatches p op opc nw s).observed = s.observed := rfl
@[simp] theorem loadLatches_draws (p : Params) (op : BitVec 4) (opc : Word) (nw : BitVec 6) : (loadLatches p op opc nw s).draws = s.draws := rfl

/-! `startTx` -/

@[simp] theorem startTx_cmd (n : Nat) : (startTx n s).cmd = s.cmd := rfl
@[simp] theorem startTx_phase (n : Nat) : (startTx n s).phase = .tx := rfl
@[simp] theorem startTx_code (n : Nat) : (startTx n s).code = s.code := rfl
@[simp] theorem startTx_matchBit (n : Nat) : (startTx n s).matchBit = s.matchBit := rfl
@[simp] theorem startTx_unknown (n : Nat) : (startTx n s).unknown = s.unknown := rfl
@[simp] theorem startTx_result (n : Nat) : (startTx n s).result = s.result := rfl
@[simp] theorem startTx_den (n : Nat) : (startTx n s).den = s.den := rfl
@[simp] theorem startTx_settle (n : Nat) : (startTx n s).settle = s.settle := rfl
@[simp] theorem startTx_busAddr (n : Nat) : (startTx n s).busAddr = s.busAddr := rfl
@[simp] theorem startTx_unkMask (n : Nat) : (startTx n s).unkMask = s.unkMask := rfl
@[simp] theorem startTx_out (n : Nat) : (startTx n s).out = s.out := rfl
@[simp] theorem startTx_data (n : Nat) : (startTx n s).data = s.data := rfl
@[simp] theorem startTx_dataValid (n : Nat) : (startTx n s).dataValid = s.dataValid := rfl
@[simp] theorem startTx_frame (n : Nat) : (startTx n s).frame = s.frame := rfl
@[simp] theorem startTx_lOp (n : Nat) : (startTx n s).lOp = s.lOp := rfl
@[simp] theorem startTx_lOpc (n : Nat) : (startTx n s).lOpc = s.lOpc := rfl
@[simp] theorem startTx_lNw (n : Nat) : (startTx n s).lNw = s.lNw := rfl
@[simp] theorem startTx_lAddr (n : Nat) : (startTx n s).lAddr = s.lAddr := rfl
@[simp] theorem startTx_lSettle (n : Nat) : (startTx n s).lSettle = s.lSettle := rfl
@[simp] theorem startTx_lTxLen (n : Nat) : (startTx n s).lTxLen = BitVec.ofNat 8 n := rfl
@[simp] theorem startTx_lCode (n : Nat) : (startTx n s).lCode = s.lCode := rfl
@[simp] theorem startTx_fault (n : Nat) : (startTx n s).fault = s.fault := rfl
@[simp] theorem startTx_events (n : Nat) : (startTx n s).events = s.events := rfl
@[simp] theorem startTx_bus (n : Nat) : (startTx n s).bus = s.bus := rfl
@[simp] theorem startTx_observed (n : Nat) : (startTx n s).observed = s.observed := rfl
@[simp] theorem startTx_draws (n : Nat) : (startTx n s).draws = s.draws := rfl

/-! `writeDataFrom`: only DATA and its validity bits change. -/

@[simp] theorem writeDataFrom_cmd (i : Nat) (ws : List Word) : (writeDataFrom i ws s).cmd = s.cmd := by
  induction ws generalizing i s with
  | nil => rfl
  | cons w ws ih => exact ih (writeData i w s) (i + 1)
@[simp] theorem writeDataFrom_phase (i : Nat) (ws : List Word) : (writeDataFrom i ws s).phase = s.phase := by
  induction ws generalizing i s with
  | nil => rfl
  | cons w ws ih => exact ih (writeData i w s) (i + 1)
@[simp] theorem writeDataFrom_code (i : Nat) (ws : List Word) : (writeDataFrom i ws s).code = s.code := by
  induction ws generalizing i s with
  | nil => rfl
  | cons w ws ih => exact ih (writeData i w s) (i + 1)
@[simp] theorem writeDataFrom_matchBit (i : Nat) (ws : List Word) : (writeDataFrom i ws s).matchBit = s.matchBit := by
  induction ws generalizing i s with
  | nil => rfl
  | cons w ws ih => exact ih (writeData i w s) (i + 1)
@[simp] theorem writeDataFrom_unknown (i : Nat) (ws : List Word) : (writeDataFrom i ws s).unknown = s.unknown := by
  induction ws generalizing i s with
  | nil => rfl
  | cons w ws ih => exact ih (writeData i w s) (i + 1)
@[simp] theorem writeDataFrom_result (i : Nat) (ws : List Word) : (writeDataFrom i ws s).result = s.result := by
  induction ws generalizing i s with
  | nil => rfl
  | cons w ws ih => exact ih (writeData i w s) (i + 1)
@[simp] theorem writeDataFrom_den (i : Nat) (ws : List Word) : (writeDataFrom i ws s).den = s.den := by
  induction ws generalizing i s with
  | nil => rfl
  | cons w ws ih => exact ih (writeData i w s) (i + 1)
@[simp] theorem writeDataFrom_settle (i : Nat) (ws : List Word) : (writeDataFrom i ws s).settle = s.settle := by
  induction ws generalizing i s with
  | nil => rfl
  | cons w ws ih => exact ih (writeData i w s) (i + 1)
@[simp] theorem writeDataFrom_busAddr (i : Nat) (ws : List Word) : (writeDataFrom i ws s).busAddr = s.busAddr := by
  induction ws generalizing i s with
  | nil => rfl
  | cons w ws ih => exact ih (writeData i w s) (i + 1)
@[simp] theorem writeDataFrom_unkMask (i : Nat) (ws : List Word) : (writeDataFrom i ws s).unkMask = s.unkMask := by
  induction ws generalizing i s with
  | nil => rfl
  | cons w ws ih => exact ih (writeData i w s) (i + 1)
@[simp] theorem writeDataFrom_out (i : Nat) (ws : List Word) : (writeDataFrom i ws s).out = s.out := by
  induction ws generalizing i s with
  | nil => rfl
  | cons w ws ih => exact ih (writeData i w s) (i + 1)
@[simp] theorem writeDataFrom_frame (i : Nat) (ws : List Word) : (writeDataFrom i ws s).frame = s.frame := by
  induction ws generalizing i s with
  | nil => rfl
  | cons w ws ih => exact ih (writeData i w s) (i + 1)
@[simp] theorem writeDataFrom_lOp (i : Nat) (ws : List Word) : (writeDataFrom i ws s).lOp = s.lOp := by
  induction ws generalizing i s with
  | nil => rfl
  | cons w ws ih => exact ih (writeData i w s) (i + 1)
@[simp] theorem writeDataFrom_lOpc (i : Nat) (ws : List Word) : (writeDataFrom i ws s).lOpc = s.lOpc := by
  induction ws generalizing i s with
  | nil => rfl
  | cons w ws ih => exact ih (writeData i w s) (i + 1)
@[simp] theorem writeDataFrom_lNw (i : Nat) (ws : List Word) : (writeDataFrom i ws s).lNw = s.lNw := by
  induction ws generalizing i s with
  | nil => rfl
  | cons w ws ih => exact ih (writeData i w s) (i + 1)
@[simp] theorem writeDataFrom_lAddr (i : Nat) (ws : List Word) : (writeDataFrom i ws s).lAddr = s.lAddr := by
  induction ws generalizing i s with
  | nil => rfl
  | cons w ws ih => exact ih (writeData i w s) (i + 1)
@[simp] theorem writeDataFrom_lSettle (i : Nat) (ws : List Word) : (writeDataFrom i ws s).lSettle = s.lSettle := by
  induction ws generalizing i s with
  | nil => rfl
  | cons w ws ih => exact ih (writeData i w s) (i + 1)
@[simp] theorem writeDataFrom_lTxLen (i : Nat) (ws : List Word) : (writeDataFrom i ws s).lTxLen = s.lTxLen := by
  induction ws generalizing i s with
  | nil => rfl
  | cons w ws ih => exact ih (writeData i w s) (i + 1)
@[simp] theorem writeDataFrom_lCode (i : Nat) (ws : List Word) : (writeDataFrom i ws s).lCode = s.lCode := by
  induction ws generalizing i s with
  | nil => rfl
  | cons w ws ih => exact ih (writeData i w s) (i + 1)
@[simp] theorem writeDataFrom_fault (i : Nat) (ws : List Word) : (writeDataFrom i ws s).fault = s.fault := by
  induction ws generalizing i s with
  | nil => rfl
  | cons w ws ih => exact ih (writeData i w s) (i + 1)
@[simp] theorem writeDataFrom_events (i : Nat) (ws : List Word) : (writeDataFrom i ws s).events = s.events := by
  induction ws generalizing i s with
  | nil => rfl
  | cons w ws ih => exact ih (writeData i w s) (i + 1)
@[simp] theorem writeDataFrom_bus (i : Nat) (ws : List Word) : (writeDataFrom i ws s).bus = s.bus := by
  induction ws generalizing i s with
  | nil => rfl
  | cons w ws ih => exact ih (writeData i w s) (i + 1)
@[simp] theorem writeDataFrom_observed (i : Nat) (ws : List Word) : (writeDataFrom i ws s).observed = s.observed := by
  induction ws generalizing i s with
  | nil => rfl
  | cons w ws ih => exact ih (writeData i w s) (i + 1)
@[simp] theorem writeDataFrom_draws (i : Nat) (ws : List Word) : (writeDataFrom i ws s).draws = s.draws := by
  induction ws generalizing i s with
  | nil => rfl
  | cons w ws ih => exact ih (writeData i w s) (i + 1)

end Sys2Proof.Machine
end

