-- ==== Sys2Proof/Laws/Data.lean ====
section
/-! SUPPORT. What the DATA file, the frame buffer and the cutting of a response frame do, each said once. -/

namespace Sys2Proof.Machine

/-! The DATA file -/

/-- A word holds a value exactly when its validity bit is set. -/
theorem dataWord?_eq_some_iff (s : State) (i : Nat) (w : Word) :
    dataWord? s i = some w ↔ ∃ h : i < dataCapacity, s.dataValid[i] = true ∧ s.data[i] = w := by
  unfold dataWord?
  split <;> simp_all

theorem dataWord?_of_ge (s : State) {i : Nat} (h : dataCapacity ≤ i) : dataWord? s i = none := by
  unfold dataWord?
  rw [dif_neg (by omega)]

/-- Only DATA and its validity bits matter to what a word holds. -/
theorem dataWord?_congr {s t : State} (hd : t.data = s.data) (hv : t.dataValid = s.dataValid) (i : Nat) :
    dataWord? t i = dataWord? s i := by
  unfold dataWord?
  rw [hd, hv]

/-- A place written holds what was written, every other place what it held. -/
@[simp] theorem putAt_getElem {α : Type} {n : Nat} (i : Nat) (x : α) (v : Vector α n) (j : Nat) (hj : j < n) :
    (putAt i x v)[j] = if i = j then x else v[j] := by
  unfold putAt
  split
  · exact Vector.getElem_set ..
  · rw [if_neg (by omega)]

/-- A write makes its word hold its value and leaves every other word alone. -/
theorem dataWord?_writeData (s : State) (i j : Nat) (w : Word) :
    dataWord? (writeData i w s) j = if j = i ∧ j < dataCapacity then some w else dataWord? s j := by
  unfold dataWord? writeData
  by_cases hj : j < dataCapacity
  · by_cases hij : i = j
    · subst hij; simp [hj]
    · simp [hj, hij, Ne.symm hij]
  · simp [hj]

/-- Writing words from an index on: each word of the list lands at its place, every other word is left alone. -/
theorem dataWord?_writeDataFrom (ws : List Word) (s : State) (i j : Nat) :
    dataWord? (writeDataFrom i ws s) j =
      if i ≤ j ∧ j < i + ws.length ∧ j < dataCapacity then ws[j - i]? else dataWord? s j := by
  induction ws generalizing i s with
  | nil => rw [if_neg (by simp; omega)]; rfl
  | cons w ws ih =>
    rw [writeDataFrom, ih, dataWord?_writeData]
    by_cases h1 : i = j
    · subst h1
      by_cases h2 : i < dataCapacity
      · simp [h2]
      · rw [if_neg (by omega), if_neg (by omega), if_neg (by omega)]
    · by_cases h2 : i + 1 ≤ j ∧ j < i + 1 + ws.length ∧ j < dataCapacity
      · rw [if_pos h2, if_pos (by simp only [List.length_cons]; omega), show j - i = (j - (i + 1)) + 1 from by omega,
          List.getElem?_cons_succ]
      · rw [if_neg h2, if_neg (by omega), if_neg (by simp only [List.length_cons]; omega)]

/-- Writing words touches DATA and its validity bits only. -/
theorem writeDataFrom_eq (ws : List Word) (i : Nat) (s : State) :
    writeDataFrom i ws s =
      { s with data := (writeDataFrom i ws s).data, dataValid := (writeDataFrom i ws s).dataValid } := by
  induction ws generalizing i s with
  | nil => rfl
  | cons w ws ih => exact ih (i + 1) (writeData i w s)

/-- Only DATA and its validity bits matter to what a write of words makes of them. -/
theorem writeDataFrom_congr (ws : List Word) (i : Nat) {s t : State} (hd : t.data = s.data)
    (hv : t.dataValid = s.dataValid) :
    (writeDataFrom i ws t).data = (writeDataFrom i ws s).data ∧
      (writeDataFrom i ws t).dataValid = (writeDataFrom i ws s).dataValid := by
  induction ws generalizing i s t with
  | nil => exact ⟨hd, hv⟩
  | cons w ws ih => exact ih (i + 1) (by simp only [writeData, hd]) (by simp only [writeData, hv])

/-! The frame buffer -/

/-- A byte of the frame after bytes are placed from an index on. -/
theorem putFrame_getElem (bs : List Byte) (k : Nat) (f : Vector Byte frameCapacity) (j : Nat) (hj : j < frameCapacity) :
    (putFrame k bs f)[j] = if k ≤ j ∧ j < k + bs.length then bs.getD (j - k) 0 else f[j] := by
  induction bs generalizing k f with
  | nil => rw [if_neg (by simp only [List.length_nil]; omega)]; rfl
  | cons b bs ih =>
    rw [putFrame, ih]
    by_cases h1 : k = j
    · subst h1; simp
    · by_cases h2 : k + 1 ≤ j ∧ j < k + 1 + bs.length
      · rw [if_pos h2, if_pos (by simp only [List.length_cons]; omega), show j - k = (j - (k + 1)) + 1 from by omega,
          List.getD_cons_succ]
      · rw [if_neg h2, if_neg (by simp only [List.length_cons]; omega), putAt_getElem, if_neg h1]

/-- Placing a list is placing its parts one after the other. -/
theorem putFrame_append (as bs : List Byte) (k : Nat) (f : Vector Byte frameCapacity) :
    putFrame k (as ++ bs) f = putFrame (k + as.length) bs (putFrame k as f) := by
  induction as generalizing k f with
  | nil => rfl
  | cons a as ih => rw [List.cons_append, putFrame, ih, putFrame, List.length_cons, Nat.add_right_comm, Nat.add_assoc]

/-- The first bytes of the frame are the bytes just placed at its start. -/
theorem putFrame_take (bs : List Byte) (f : Vector Byte frameCapacity) (h : bs.length ≤ frameCapacity) :
    (putFrame 0 bs f).toList.take bs.length = bs := by
  apply List.ext_getElem
  · simp [h]
  · intro j h1 h2
    have hj : j < frameCapacity := by omega
    have := putFrame_getElem bs 0 f j hj
    rw [if_pos (by omega)] at this
    simp only [List.getElem_take, Vector.getElem_toList, this, Nat.sub_zero]
    exact (List.getElem_eq_getD 0).symm

/-! The frame build of a WRITE -/

/-- A word of 16 bits takes three bytes of the wire. -/
theorem wireBytes_of_sixteen {p : Params} (sixteen : p.wordWidth = 16) : p.wireBytes = 3 := by
  unfold Params.wireBytes
  rw [sixteen]

@[simp] theorem params_wireBytes : params.wireBytes = 3 := rfl

/-- The word at an index, 0 where it holds none. -/
def wordAt (s : State) (i : Nat) : Word := (dataWord? s i).getD 0

/-- The build succeeds exactly when every word it needs holds a value. -/
theorem buildWords_ok (p : Params) (s : State) (is : List Nat) (f : Vector Byte frameCapacity) :
    (buildWords p s is f).2 = is.all (fun i => (dataWord? s i).isSome) := by
  induction is generalizing f with
  | nil => rfl
  | cons i is ih =>
    rw [buildWords, List.all_cons]
    cases dataWord? s i with
    | none => rfl
    | some w => simpa using ih _

/-- A build that succeeds places each word's three bytes, in index order. -/
theorem buildWords_frame {p : Params} (three : p.wireBytes = 3) (s : State) (n i : Nat) (f : Vector Byte frameCapacity)
    (h : ∀ j, i ≤ j → j < i + n → (dataWord? s j).isSome = true) :
    (buildWords p s (List.range' i n) f).1 =
      putFrame (2 + 3 * i) ((List.range' i n).map (fun j => wireWord p (wordAt s j))).flatten f := by
  induction n generalizing i f with
  | zero => rfl
  | succ n ih =>
    obtain ⟨w, hw⟩ := Option.isSome_iff_exists.1 (h i (le_refl i) (by omega))
    rw [List.range'_succ, buildWords, hw, three]
    simp only [List.map_cons, List.flatten_cons]
    rw [ih (i + 1) _ (fun j h1 h2 => h j (by omega) (by omega)), putFrame_append]
    simp only [wordAt, hw, Option.getD_some]
    rfl

/-- The build reads only DATA and its validity bits. -/
theorem buildWords_congr {p : Params} {s t : State} (is : List Nat) (f : Vector Byte frameCapacity)
    (h : ∀ i, dataWord? t i = dataWord? s i) : buildWords p t is f = buildWords p s is f := by
  induction is generalizing f with
  | nil => rfl
  | cons i is ih =>
    rw [buildWords, buildWords, h i]
    cases dataWord? s i with
    | none => rfl
    | some w => exact ih _

/-! Cutting a response frame -/

/-- A frame of `3n` bytes has `n` triples. -/
theorem triples_length (n : Nat) (r : List Byte) (h : r.length = 3 * n) : (triples r).length = n := by
  induction n generalizing r with
  | zero => rw [List.length_eq_zero_iff.1 h]; rfl
  | succ n ih =>
    match r, h with
    | a :: b :: c :: rest, h =>
      simp only [List.length_cons] at h
      simp only [triples, List.length_cons, ih rest (by omega)]

/-- The `i`-th triple is bytes `3i` to `3i + 2`. -/
theorem triples_getElem? (n : Nat) (r : List Byte) (h : r.length = 3 * n) (i : Nat) (hi : i < n) :
    (triples r)[i]? = some (r.getD (3 * i) 0, r.getD (3 * i + 1) 0, r.getD (3 * i + 2) 0) := by
  induction n generalizing r i with
  | zero => omega
  | succ n ih =>
    match r, h with
    | a :: b :: c :: rest, h =>
      simp only [List.length_cons] at h
      cases i with
      | zero => rfl
      | succ i =>
        rw [triples, List.getElem?_cons_succ, ih rest (by omega) i (by omega)]
        rw [show 3 * (i + 1) = 3 * i + 1 + 1 + 1 from by omega]
        simp only [List.getD_cons_succ]

/-- The triples of a payload of wire words are the words' own. -/
theorem triples_wire (p : Params) (ws : List Word) :
    triples (ws.map (wireWord p)).flatten = ws.map (fun w => (msbOf w, lsbOf w, crc8 p (msbOf w) (lsbOf w))) := by
  induction ws with
  | nil => rfl
  | cons w ws ih => simp only [List.map_cons, List.flatten_cons, wireWord, List.cons_append, List.nil_append, triples, ih]

/-- A word is its two wire bytes put together. -/
theorem wordOf_bytes (w : Word) : wordOf (msbOf w) (lsbOf w) = w := by
  apply BitVec.eq_of_getLsbD_eq
  intro i hi
  simp only [wordOf, msbOf, lsbOf, BitVec.getLsbD_append, BitVec.getLsbD_extractLsb']
  by_cases h : i < 8
  · simp [h]
  · simp [h, show i - 8 < 8 from by omega, show 8 + (i - 8) = i from by omega]

end Sys2Proof.Machine
end

