-- ==== Sys2Proof/Laws/Decode.lean ====
section
/-! SUPPORT. Command words and their fields as numbers, so that facts about encodings are arithmetic. -/

namespace Sys2Proof

theorem channelOf_channelBits (ch : Channel) : channelOf (channelBits ch) = ch := by cases ch <;> rfl

theorem channelNumber_lt (ch : Channel) : channelNumber ch < 8 := by cases ch <;> decide

theorem channelNumber_channelOf (b : BitVec 3) : channelNumber (channelOf b) = b.toNat := by
  unfold channelOf
  have := b.isLt
  interval_cases b.toNat <;> rfl

/-- A field of a command word, as a number. -/
theorem toNat_field (c : Reg) (lo w : Nat) : (c.extractLsb' lo w).toNat = c.toNat / 2 ^ lo % 2 ^ w := by
  simp [BitVec.extractLsb'_toNat, Nat.shiftRight_eq_div_pow]

/-- A field with a given number is that bit vector. -/
theorem field_eq {w : Nat} (c : Reg) (lo : Nat) (x : BitVec w) (h : c.toNat / 2 ^ lo % 2 ^ w = x.toNat) :
    c.extractLsb' lo w = x :=
  BitVec.eq_of_toNat_eq ((toNat_field c lo w).trans h)

theorem opField_toNat (c : Reg) : (opField c).toNat = c.toNat % 16 := by simp [opField]

/-- Concatenation, as a number. -/
theorem toNat_append_eq {a b : Nat} (x : BitVec a) (y : BitVec b) : (x ++ y).toNat = x.toNat * 2 ^ b + y.toNat := by
  rw [BitVec.toNat_append, ← Nat.shiftLeft_add_eq_or_of_lt y.isLt, Nat.shiftLeft_eq]

/-- Every command's word, as a number. -/
theorem encode_toNat (i : Instr) : (encode i).toNat = match i with
    | .crc8 m l => m.toNat * 2 ^ 24 + l.toNat * 2 ^ 16 + 1
    | .crcchk m l k => m.toNat * 2 ^ 24 + l.toNat * 2 ^ 16 + k.toNat * 2 ^ 8 + 2
    | .exec o => o.toNat * 2 ^ 16 + 3
    | .write o n => o.toNat * 2 ^ 16 + n.toNat * 2 ^ 10 + 4
    | .read o n => o.toNat * 2 ^ 16 + n.toNat * 2 ^ 10 + 5
    | .sent r => r.toNat * 2 ^ 16 + 6
    | .scale ch r => r.toNat * 2 ^ 16 + channelNumber ch * 16 + 7
    | .roundMetric ch r => r.toNat * 2 ^ 16 + 2 ^ 8 + channelNumber ch * 16 + 8
    | .roundImperial ch r => r.toNat * 2 ^ 16 + 2 * 2 ^ 8 + channelNumber ch * 16 + 8
    | .decodeRaw => 9
    | .decodeMetric => 0x109
    | .decodeImperial => 0x209 := by
  cases i <;> simp only [encode]
  all_goals try rfl
  all_goals simp only [toNat_append_eq, channelBits, BitVec.toNat_ofNat]
  all_goals try have h := channelNumber_lt ‹Channel›
  all_goals omega

/-- And-ing with a run of ones keeps the field under it. -/
theorem land_run (x lo n : Nat) : x &&& ((2 ^ n - 1) <<< lo) = (x / 2 ^ lo % 2 ^ n) <<< lo := by
  apply Nat.eq_of_testBit_eq
  intro k
  rw [← Nat.shiftRight_eq_div_pow]
  simp only [Nat.testBit_and, Nat.testBit_shiftLeft, Nat.testBit_mod_two_pow, Nat.testBit_shiftRight,
    Nat.testBit_two_pow_sub_one]
  by_cases h : lo ≤ k
  · by_cases h2 : k - lo < n <;> simp [h, h2, Nat.add_sub_cancel' h]
  · simp [h]

/-- A mask that is one run of ones is clear exactly when the field under it is 0. -/
theorem and_run_eq_zero (c : Reg) (lo n : Nat) (m : Reg) (hm : m.toNat = (2 ^ n - 1) <<< lo) :
    c &&& m = 0 ↔ c.toNat / 2 ^ lo % 2 ^ n = 0 := by
  rw [← BitVec.toNat_inj, BitVec.toNat_and, hm, land_run]
  simp [Nat.shiftLeft_eq]

theorem and_or_eq_zero (c m1 m2 : Reg) : c &&& (m1 ||| m2) = 0 ↔ c &&& m1 = 0 ∧ c &&& m2 = 0 := by
  have : c &&& (m1 ||| m2) = (c &&& m1) ||| (c &&& m2) := by ext k; simp [Bool.and_or_distrib_left]
  rw [this, ← BitVec.toNat_inj, ← BitVec.toNat_inj (x := c &&& m1), ← BitVec.toNat_inj (x := c &&& m2)]
  simp [Nat.or_eq_zero_iff]

/-- Each format's reserved bits are clear exactly when its reserved fields are 0. -/
theorem reservedMask_clear_iff (c : Reg) (op : BitVec 4) : c &&& reservedMask op = 0 ↔ match op.toNat with
    | 1 | 3 | 6 => c.toNat / 2 ^ 4 % 2 ^ 12 = 0
    | 2 => c.toNat / 2 ^ 4 % 2 ^ 4 = 0
    | 4 | 5 => c.toNat / 2 ^ 4 % 2 ^ 6 = 0
    | 7 => c.toNat / 2 ^ 7 % 2 ^ 9 = 0
    | 8 => c.toNat / 2 ^ 7 % 2 = 0 ∧ c.toNat / 2 ^ 10 % 2 ^ 6 = 0
    | 9 => c.toNat / 2 ^ 4 % 2 ^ 4 = 0 ∧ c.toNat / 2 ^ 10 % 2 ^ 22 = 0
    | _ => True := by
  unfold reservedMask
  have := op.isLt
  interval_cases op.toNat <;> simp only
  all_goals first
    | (simp; done)
    | (exact and_run_eq_zero c 4 12 _ (by decide))
    | (exact and_run_eq_zero c 4 4 _ (by decide))
    | (exact and_run_eq_zero c 4 6 _ (by decide))
    | (exact and_run_eq_zero c 7 9 _ (by decide))
    | skip
  · rw [show (0x0000FC80 : Reg) = 0x80 ||| 0xFC00 from by decide, and_or_eq_zero,
      and_run_eq_zero c 7 1 _ (by decide), and_run_eq_zero c 10 6 _ (by decide), pow_one]
  · rw [show (0xFFFFFCF0 : Reg) = 0xF0 ||| 0xFFFFFC00 from by decide, and_or_eq_zero,
      and_run_eq_zero c 4 4 _ (by decide), and_run_eq_zero c 10 22 _ (by decide)]

end Sys2Proof
end

