-- ==== Sys2Proof/Laws/Flags.lean ====
section
/-! SUPPORT. The unknown mask, bit by bit. -/

namespace Sys2Proof.Machine

/-- Bit i of the mask is channel i's flag. -/
theorem maskOf_bit (u : Channel → Bool) (ch : Channel) : (maskOf u).getLsbD (channelNumber ch) = u ch := by
  have all : ∀ a0 a1 a2 a3 a4 a5 a6 a7 : Bool, ∀ c : BitVec 8,
      c = BitVec.ofBool a7 ++ BitVec.ofBool a6 ++ BitVec.ofBool a5 ++ BitVec.ofBool a4 ++ BitVec.ofBool a3 ++
        BitVec.ofBool a2 ++ BitVec.ofBool a1 ++ BitVec.ofBool a0 →
      c.getLsbD 0 = a0 ∧ c.getLsbD 1 = a1 ∧ c.getLsbD 2 = a2 ∧ c.getLsbD 3 = a3 ∧ c.getLsbD 4 = a4 ∧
        c.getLsbD 5 = a5 ∧ c.getLsbD 6 = a6 ∧ c.getLsbD 7 = a7 := by
    rintro a0 a1 a2 a3 a4 a5 a6 a7 c rfl
    revert a0 a1 a2 a3 a4 a5 a6 a7
    decide
  obtain ⟨h0, h1, h2, h3, h4, h5, h6, h7⟩ := all (u .pm1) (u .pm2p5) (u .pm4) (u .pm10) (u .rh) (u .t) (u .voc)
    (u .nox) (maskOf u) rfl
  cases ch <;> assumption

/-- The mask is not 0 exactly when some channel is unknown. -/
theorem maskOf_ne_zero_iff (u : Channel → Bool) : (maskOf u != 0) = true ↔ ∃ ch, u ch = true := by
  constructor
  · intro h
    by_contra hc
    simp only [not_exists, Bool.not_eq_true] at hc
    have : maskOf u = 0 := by simp only [maskOf, hc]; rfl
    rw [this] at h
    simp at h
  · rintro ⟨ch, h⟩
    rw [bne_iff_ne]
    intro hz
    rw [← maskOf_bit u ch, hz] at h
    simp at h

end Sys2Proof.Machine
end

