-- ==== Sys2Proof/Laws/Measure.lean ====
section
/-! SUPPORT. Bounds of the integer rounding, and the sentinel test as a proposition. -/

namespace Sys2Proof.Machine

/-- The sentinel test holds for two patterns only. -/
theorem isSentinel_iff (w : Word) : isSentinel w = true ↔ w = 0x7FFF ∨ w = 0xFFFF := by simp [isSentinel]

/-- `s16` is the two's complement reading. -/
theorem s16_eq_toInt (w : Word) : s16 w = w.toInt := by
  rw [BitVec.toInt_eq_msb_cond, s16, BitVec.msb_eq_getLsbD_last]; rfl

/-- A quotient strictly within half a unit of a range rounds into the range, whatever the tie rule. -/
theorem roundTies_bounds (ties : RoundTies) (p : Int) (q : Nat) (a b : Int) (hq : 0 < q)
    (h1 : (2 * a - 1) * q < 2 * p) (h2 : 2 * p < (2 * b + 1) * q) :
    a ≤ roundTies ties p q ∧ roundTies ties p q ≤ b := by
  have hqz : (0 : Int) < q := by exact_mod_cast hq
  have hd := Int.emod_add_mul_ediv p q
  have hm := Int.emod_nonneg p hqz.ne'
  have hm1 := Int.emod_lt_of_pos p hqz
  have near : ∀ r : Int, 2 * (r * q) - q ≤ 2 * p → 2 * p ≤ 2 * (r * q) + q → a ≤ r ∧ r ≤ b := by
    intro r g1 g2
    constructor
    · by_contra hc
      have : (r + 1) * q ≤ a * q := Int.mul_le_mul_of_nonneg_right (by omega) hqz.le
      nlinarith
    · by_contra hc
      have : (b + 1) * q ≤ r * q := Int.mul_le_mul_of_nonneg_right (by omega) hqz.le
      nlinarith
  have hc : (q : Int) * (p / q) = p / q * q := mul_comm _ _
  have hs : (p / (q : Int) + 1) * q = p / q * q + q := by ring
  unfold roundTies
  cases ties <;> simp only <;> split_ifs <;> apply near <;> omega

/-! `decodeReading`, field by field -/

/-- A block of eight channels has every channel. -/
theorem hasChannel_of_eight {p : Params} (eight : p.channels = 8) (ch : Channel) : hasChannel p ch = true := by
  unfold hasChannel
  rw [eight]
  cases ch <;> rfl

/-- With eight channels every OUT is its channel's numerator. -/
theorem laneOut_of_eight {p : Params} (eight : p.channels = 8) (s : State) (m : RMode) (ch : Channel) :
    laneOut p s m ch = BitVec.ofInt 32 (lane p s m ch).2 := by
  simp only [laneOut, hasChannel_of_eight eight, if_true]

/-- With eight channels every mask bit is its channel's unknown flag. -/
theorem laneUnknown_of_eight {p : Params} (eight : p.channels = 8) (s : State) (m : RMode) (ch : Channel) :
    laneUnknown p s m ch = (lane p s m ch).1 := by
  simp only [laneUnknown, hasChannel_of_eight eight, Bool.true_and]

@[simp] theorem decodeReading_unkMask (p : Params) (m : RMode) (s : State) :
    (decodeReading p m s).unkMask = maskOf (laneUnknown p s m) := rfl

@[simp] theorem decodeReading_unknown (p : Params) (m : RMode) (s : State) :
    (decodeReading p m s).unknown = (maskOf (laneUnknown p s m) != 0) := rfl

theorem decodeReading_out_get (p : Params) (m : RMode) (s : State) (ch : Channel) (h : channelNumber ch < channelCapacity) :
    (decodeReading p m s).out.get ⟨channelNumber ch, h⟩ = laneOut p s m ch := by cases ch <;> rfl

/-- A decode writes OUT, UNKMASK and UNKNOWN and nothing else. -/
theorem decodeReading_frame (p : Params) (m : RMode) (s : State) :
    decodeReading p m s = { s with
      out := (decodeReading p m s).out
      unkMask := (decodeReading p m s).unkMask
      unknown := (decodeReading p m s).unknown } := rfl

end Sys2Proof.Machine
end

