-- ==== Sys2Proof/Laws/PerInstr.lean ====
section
/-! SUPPORT. The family `TableRow`: every command's word has the fixed bits that spec/opcode_table.json gives its row,
whatever its operands. The rows are written from the table, apart from the encoder and the decoder. -/

namespace Sys2Proof.Laws.TableRow

/-- A row of spec/opcode_table.json: its mask and its match. -/
def row : Instr → Reg × Reg
  | .crc8 _ _ => (0x0000FFFF, 0x00000001)
  | .crcchk _ _ _ => (0x000000FF, 0x00000002)
  | .exec _ => (0x0000FFFF, 0x00000003)
  | .write _ _ => (0x000003FF, 0x00000004)
  | .read _ _ => (0x000003FF, 0x00000005)
  | .sent _ => (0x0000FFFF, 0x00000006)
  | .scale _ _ => (0x0000FF8F, 0x00000007)
  | .roundMetric _ _ => (0x0000FF8F, 0x00000108)
  | .roundImperial _ _ => (0x0000FF8F, 0x00000208)
  | .decodeRaw => (0xFFFFFFFF, 0x00000009)
  | .decodeMetric => (0xFFFFFFFF, 0x00000109)
  | .decodeImperial => (0xFFFFFFFF, 0x00000209)

/-- The command's word under its row's mask is its row's match. -/
def Statement (i : Instr) : Prop := encode i &&& (row i).1 = (row i).2

/-- A mask of the low `n` bits leaves the word's remainder. -/
theorem and_low (c m r : Reg) (n v : Nat) (hm : m.toNat = 2 ^ n - 1) (hr : r.toNat = v) (h : c.toNat % 2 ^ n = v) :
    c &&& m = r := by
  apply BitVec.eq_of_toNat_eq
  rw [BitVec.toNat_and, hm, Nat.and_two_pow_sub_one_eq_mod, h, hr]

/-- The mask 0xFF8F leaves the low half of a word but its three channel bits. -/
theorem and_channel (c r : Reg) (op rest : Nat) (hr : r.toNat = rest * 2 ^ 7 + op)
    (hop : op < 16) (h4 : c.toNat % 2 ^ 4 = op) (h9 : c.toNat / 2 ^ 7 % 2 ^ 9 = rest) : c &&& 0x0000FF8F = r := by
  apply BitVec.eq_of_toNat_eq
  have split : (0x0000FF8F : Reg) = 0xF ||| 0xFF80 := by decide
  have low : c.toNat &&& 0xF = op := by
    rw [show (0xF : Nat) = 2 ^ 4 - 1 from rfl, Nat.and_two_pow_sub_one_eq_mod, h4]
  have high : c.toNat &&& 0xFF80 = rest * 2 ^ 7 := by
    rw [show (0xFF80 : Nat) = (2 ^ 9 - 1) <<< 7 from rfl, land_run, h9, Nat.shiftLeft_eq]
  have sum : (rest * 2 ^ 7) ||| op = rest * 2 ^ 7 + op := by
    rw [← Nat.shiftLeft_eq, Nat.shiftLeft_add_eq_or_of_lt (by omega : op < 2 ^ 7)]
  rw [split, BitVec.toNat_and, BitVec.toNat_or]
  change c.toNat &&& (0xF ||| 0xFF80) = _
  rw [Nat.and_or_distrib_left, low, high, Nat.or_comm, sum, hr]

theorem crc8 (msb lsb : Byte) : Statement (.crc8 msb lsb) :=
  and_low _ _ _ 16 1 rfl rfl (by rw [encode_toNat]; simp only; omega)

theorem crcchk (msb lsb crc : Byte) : Statement (.crcchk msb lsb crc) :=
  and_low _ _ _ 8 2 rfl rfl (by rw [encode_toNat]; simp only; omega)

theorem exec (opc : Word) : Statement (.exec opc) :=
  and_low _ _ _ 16 3 rfl rfl (by rw [encode_toNat]; simp only; omega)

theorem write (opc : Word) (nw : BitVec 6) : Statement (.write opc nw) :=
  and_low _ _ _ 10 4 rfl rfl (by rw [encode_toNat]; simp only; omega)

theorem read (opc : Word) (nw : BitVec 6) : Statement (.read opc nw) :=
  and_low _ _ _ 10 5 rfl rfl (by rw [encode_toNat]; simp only; omega)

theorem sent (raw : Word) : Statement (.sent raw) :=
  and_low _ _ _ 16 6 rfl rfl (by rw [encode_toNat]; simp only; omega)

theorem scale (ch : Channel) (raw : Word) : Statement (.scale ch raw) := by
  have := channelNumber_lt ch
  exact and_channel _ _ 7 0 rfl (by omega) (by rw [encode_toNat]; simp only; omega) (by rw [encode_toNat]; simp only; omega)

theorem roundMetric (ch : Channel) (raw : Word) : Statement (.roundMetric ch raw) := by
  have := channelNumber_lt ch
  exact and_channel _ _ 8 2 rfl (by omega) (by rw [encode_toNat]; simp only; omega) (by rw [encode_toNat]; simp only; omega)

theorem roundImperial (ch : Channel) (raw : Word) : Statement (.roundImperial ch raw) := by
  have := channelNumber_lt ch
  exact and_channel _ _ 8 4 rfl (by omega) (by rw [encode_toNat]; simp only; omega) (by rw [encode_toNat]; simp only; omega)

theorem decodeRaw : Statement .decodeRaw := by unfold Statement; decide

theorem decodeMetric : Statement .decodeMetric := by unfold Statement; decide

theorem decodeImperial : Statement .decodeImperial := by unfold Statement; decide

end Sys2Proof.Laws.TableRow
end

