-- ==== Sys2Proof/Laws/Step.lean ====
section
/-! SUPPORT. What a step can do, said once: `step_move` is the one inversion of `step`, and each shared operation has
the lemma that says everything it can answer. -/

namespace Sys2Proof.Machine

/-! Commands -/

/-- `exec` is `run` for the block of R6. -/
theorem run_params (i : Instr) (s : State) : run params i s = exec i s := by cases i <;> rfl

/-- Every command answers a next state, in every block. -/
theorem run_answers_next (p : Params) (i : Instr) (s : State) : ∃ t, run p i s = .next t := by
  cases i
  case write opc nw =>
    simp only [run, runWrite]
    split
    · split <;> exact ⟨_, rfl⟩
    · exact ⟨_, rfl⟩
  case read opc nw =>
    simp only [run, runRead]
    split <;> exact ⟨_, rfl⟩
  case decodeRaw | decodeMetric | decodeImperial =>
    simp only [run, runDecode]
    split <;> exact ⟨_, rfl⟩
  all_goals exact ⟨_, rfl⟩

/-- Every command answers a next state. -/
theorem exec_answers_next (i : Instr) (s : State) : ∃ t, exec i s = .next t :=
  run_params i s ▸ run_answers_next params i s

/-- A count the block runs is one from 1 to its MAX_WORDS. -/
theorem nwLegal_iff (p : Params) (nw : BitVec 6) : nwLegal p nw = true ↔ 1 ≤ nw.toNat ∧ nw.toNat ≤ p.maxWords := by
  simp [nwLegal]

/-- The settle time latched is the greater of SETTLE and the floor, which R42's latch can hold. -/
theorem effectiveSettle_toNat {minMs : Nat} (fits : minMs < 2 ^ 16) (settle : BitVec 16) :
    (effectiveSettle minMs settle).toNat = max settle.toNat minMs := by
  unfold effectiveSettle
  split <;> simp <;> omega

/-- A WRITE ends in LENGTH_ERROR, in a fault mark, or waiting for the transport. -/
theorem runWrite_cases {p : Params} (opc : Word) (nw : BitVec 6) (s t : State) (h : runWrite p opc nw s = .next t) :
    let s1 := loadLatches p opWrite opc nw s
    let built := buildWords p s1 (List.range nw.toNat) s1.frame
    (nwLegal p nw = false ∧ t = complete .lengthError s) ∨
    (nwLegal p nw = true ∧ built.2 = false ∧ t = raiseFault .unwrittenData { s1 with frame := built.1 }) ∨
    (nwLegal p nw = true ∧ built.2 = true ∧ t = startTx (2 + p.wireBytes * nw.toNat) { s1 with frame := built.1 }) := by
  simp only [runWrite] at h
  split at h
  · next hn =>
    split at h
    · next hb => cases h; exact .inr (.inr ⟨hn, hb, rfl⟩)
    · next hb => cases h; exact .inr (.inl ⟨hn, by simpa using hb, rfl⟩)
  · next hn => cases h; exact .inl ⟨by simpa using hn, rfl⟩

/-- A READ ends in LENGTH_ERROR or waiting for the transport. -/
theorem runRead_cases {p : Params} (opc : Word) (nw : BitVec 6) (s t : State) (h : runRead p opc nw s = .next t) :
    (nwLegal p nw = false ∧ t = complete .lengthError s) ∨
    (nwLegal p nw = true ∧ t = startTx 2 (loadLatches p opRead opc nw s)) := by
  simp only [runRead] at h
  split at h
  · next hn => cases h; exact .inr ⟨hn, rfl⟩
  · next hn => cases h; exact .inl ⟨by simpa using hn, rfl⟩

/-- A DECODE ends in a fault mark or completes. -/
theorem runDecode_cases {p : Params} (m : RMode) (s t : State) (h : runDecode p m s = .next t) :
    (readingValid p s = false ∧ t = raiseFault .unwrittenData s) ∨
    (readingValid p s = true ∧ t = complete .ok (decodeReading p m s)) := by
  simp only [runDecode] at h
  split at h
  · next hv => cases h; exact .inr ⟨hv, rfl⟩
  · next hv => cases h; exact .inl ⟨by simpa using hv, rfl⟩

/-- A reading is valid exactly when the DATA words of the block's channels all hold values. -/
theorem readingValid_iff (p : Params) (s : State) :
    readingValid p s = true ↔ ∀ i, i < p.channels → (dataWord? s i).isSome = true := by
  simp only [readingValid, List.all_eq_true, List.mem_range]

/-- A DECODE needs a word that holds no value exactly when its reading is not valid. -/
theorem readingValid_eq_false_iff (p : Params) (s : State) :
    readingValid p s = false ↔ ∃ k, k < p.channels ∧ dataWord? s k = none := by
  rw [← Bool.not_eq_true, readingValid_iff]
  simp only [not_forall, Bool.not_eq_true, Option.isSome_eq_false_iff, Option.isNone_iff_eq_none, exists_prop]

/-- A command leaves the fault mark alone, but for a WRITE or DECODE that needs a word holding no value. -/
theorem run_fault {p : Params} {i : Instr} {s t : State} (h : run p i s = .next t) :
    t.fault = s.fault ∨ (t.fault = some .unwrittenData ∧ ∃ k, dataWord? s k = none ∧
      ((∃ opc nw, i = .write opc nw ∧ nwLegal p nw = true ∧ k < nw.toNat) ∨
        ((i = .decodeRaw ∨ i = .decodeMetric ∨ i = .decodeImperial) ∧ k < p.channels))) := by
  cases i
  case write opc nw =>
    obtain ⟨-, rfl⟩ | ⟨legal, build, rfl⟩ | ⟨-, -, rfl⟩ := runWrite_cases opc nw s t h
    · exact .inl rfl
    · have same : ∀ i, dataWord? (loadLatches p opWrite opc nw s) i = dataWord? s i := dataWord?_congr rfl rfl
      rw [buildWords_congr _ _ same, buildWords_ok, List.all_eq_false] at build
      obtain ⟨k, hk, none⟩ := build
      exact .inr ⟨rfl, k, by simpa using none, .inl ⟨opc, nw, rfl, legal, List.mem_range.1 hk⟩⟩
    · exact .inl rfl
  case read opc nw =>
    obtain ⟨-, rfl⟩ | ⟨-, rfl⟩ := runRead_cases opc nw s t h <;> exact .inl rfl
  case decodeRaw | decodeMetric | decodeImperial =>
    obtain ⟨invalid, rfl⟩ | ⟨-, rfl⟩ := runDecode_cases _ s t h
    · obtain ⟨k, hk, none⟩ := (readingValid_eq_false_iff p s).1 invalid
      exact .inr ⟨rfl, k, none, .inr ⟨by simp, hk⟩⟩
    · exact .inl rfl
  all_goals cases h; exact .inl rfl

/-! The host's accesses -/

/-- A CMD write to an idle block runs its command or completes with ILLEGAL_CMD. -/
theorem commandWrite_cases {p : Params} (c : Reg) (s t : State) (h : commandWrite p c s = .next t) :
    (∃ e, decode c = .error e ∧ t = complete .illegalCmd (acceptWord c s)) ∨
    (∃ i, decode c = .ok i ∧ run p i (acceptWord c s) = .next t) := by
  unfold commandWrite at h
  split at h
  · next i hi => exact .inr ⟨i, hi, h⟩
  · next e he => cases h; exact .inl ⟨e, he, rfl⟩

/-- BUSY is PHASE not IDLE. -/
@[simp] theorem busy_eq_true_iff (s : State) : busy s = true ↔ s.phase ≠ .idle := by simp [busy]

/-- Everything a host write can do. -/
theorem hostWrite_cases {p : Params} (w : AccessWidth) (off : BitVec 8) (v : Reg) (s t : State)
    (h : hostWrite p w off v s = .next t) :
    (∃ r, accessReg p w off = .error r ∧ t = raiseFault r s) ∨
    (∃ reg, accessReg p w off = .ok reg ∧ accessOf reg = .ro ∧ t = s) ∨
    (∃ reg, accessReg p w off = .ok reg ∧ accessOf reg ≠ .ro ∧ s.phase ≠ .idle ∧ t = raiseFault .writeWhileBusy s) ∨
    (∃ reg, accessReg p w off = .ok reg ∧ accessOf reg = .rw ∧ s.phase = .idle ∧ t = writeReg p reg v s) ∨
    (∃ reg, accessReg p w off = .ok reg ∧ accessOf reg = .cmd ∧ s.phase = .idle ∧ commandWrite p v s = .next t) := by
  unfold hostWrite at h
  split at h
  · next r hr => cases h; exact .inl ⟨r, hr, rfl⟩
  · next reg hr =>
    by_cases hb : s.phase = .idle
    · have hb' : busy s = false := by simp [busy, hb]
      split at h
      · next ha => cases h; exact .inr (.inl ⟨reg, hr, ha, rfl⟩)
      · next ha =>
        simp only [hb', Bool.false_eq_true, if_false] at h
        cases h; exact .inr (.inr (.inr (.inl ⟨reg, hr, ha, hb, rfl⟩)))
      · next ha =>
        simp only [hb', Bool.false_eq_true, if_false] at h
        exact .inr (.inr (.inr (.inr ⟨reg, hr, ha, hb, h⟩)))
    · have hb' : busy s = true := by simp [hb]
      split at h
      · next ha => cases h; exact .inr (.inl ⟨reg, hr, ha, rfl⟩)
      · next ha =>
        simp only [hb', if_true] at h
        cases h; exact .inr (.inr (.inl ⟨reg, hr, by simp [ha], hb, rfl⟩))
      · next ha =>
        simp only [hb', if_true] at h
        cases h; exact .inr (.inr (.inl ⟨reg, hr, by simp [ha], hb, rfl⟩))

/-- Everything a host read can do. -/
theorem hostRead_cases {p : Params} (w : AccessWidth) (off : BitVec 8) (s t : State)
    (h : hostRead p w off s = .next t) :
    (∃ r, hostValue p w off s = .error r ∧ t = raiseFault r s) ∨
    (∃ v, hostValue p w off s = .ok v ∧ t = observe v s) := by
  unfold hostRead at h
  split at h
  · next r hr => cases h; exact .inl ⟨r, hr, rfl⟩
  · next v hv => cases h; exact .inr ⟨v, hv, rfl⟩

/-- The block has the register: an OUT is one of its `CHANNELS`, a DATA word one of its `MAX_WORDS`. -/
def HasReg (p : Params) : HostReg → Prop
  | .out i => i.val < p.channels
  | .data i => i.val < p.maxWords
  | .cmd | .status | .result | .den | .settle | .busAddr | .unkMask => True

/-- With eight channels the block has every register but the DATA words past its `MAX_WORDS`. -/
theorem hasReg_iff {p : Params} (eight : p.channels = 8) (r : HostReg) :
    HasReg p r ↔ ∀ i, r = .data i → i.val < p.maxWords := by
  cases r <;> simp [HasReg, eight]

/-- The registers of the block of R6. -/
theorem hasReg_params (r : HostReg) : HasReg params r ↔ ∀ i, r = .data i → i.val < 16 := hasReg_iff rfl r

/-- OUT's offsets (R27). -/
theorem offsetOf_out_toNat (i : Fin channelCapacity) : (offsetOf (.out i)).toNat = 0x20 + 4 * i.val := by
  have : i.val < 8 := i.isLt
  simp only [offsetOf, BitVec.toNat_ofNat]
  omega

/-- DATA's offsets (R27, R7). -/
theorem offsetOf_data_toNat (i : Fin dataCapacity) : (offsetOf (.data i)).toNat = 0x40 + 4 * i.val := by
  have : i.val < 48 := i.isLt
  simp only [offsetOf, BitVec.toNat_ofNat]
  omega

/-- A register of the block stands at its offset, and nothing else does. -/
theorem regAt_eq_ok_iff (p : Params) (off : BitVec 8) (r : HostReg) :
    regAt p off = .ok r ↔ offsetOf r = off ∧ HasReg p r := by
  have hlt := off.isLt
  constructor
  · intro h
    unfold regAt at h
    split at h
    · cases h
    · split at h
      · next ho =>
        cases h
        refine ⟨BitVec.eq_of_toNat_eq ?_, ?_⟩
        · rw [offsetOf_out_toNat]
          simp only
          omega
        · simp only [HasReg]
          omega
      · split at h
        · cases h
          refine ⟨BitVec.eq_of_toNat_eq ?_, ?_⟩
          · rw [offsetOf_data_toNat]
            simp only
            omega
          · simp only [HasReg]
            omega
        · split at h <;> cases h
          all_goals
            refine ⟨BitVec.eq_of_toNat_eq ?_, trivial⟩
            simp only [offsetOf, BitVec.reduceToNat]
            omega
  · rintro ⟨rfl, hr⟩
    cases r
    case out i =>
      have hi : i.val < 8 := i.isLt
      simp only [HasReg] at hr
      unfold regAt
      simp only [offsetOf_out_toNat]
      rw [if_neg (by omega), dif_pos ⟨by omega, by unfold channelCapacity; omega⟩]
      congr
      omega
    case data i =>
      simp only [HasReg] at hr
      unfold regAt
      simp only [offsetOf_data_toNat]
      rw [if_neg (by omega), dif_neg (by unfold channelCapacity; omega), dif_pos ⟨by omega, by omega⟩]
      congr
      omega
    all_goals rfl

/-- The map names each register of the block at its offset. -/
theorem regAt_offsetOf {p : Params} {r : HostReg} (h : HasReg p r) : regAt p (offsetOf r) = .ok r :=
  (regAt_eq_ok_iff p _ r).2 ⟨rfl, h⟩

/-- A whole register of 32 bits is moved by a 32-bit access and no other. -/
@[simp] theorem widthBits_eq_32_iff (w : AccessWidth) : widthBits w = 32 ↔ w = .w32 := by
  cases w <;> simp [widthBits]

/-- An access names a register of the block when it is as wide as a register and at the register's offset. -/
theorem accessReg_eq_ok_iff (p : Params) (w : AccessWidth) (off : BitVec 8) (r : HostReg) :
    accessReg p w off = .ok r ↔ widthBits w = p.regWidth ∧ offsetOf r = off ∧ HasReg p r := by
  unfold accessReg
  split <;> simp [*, regAt_eq_ok_iff]

/-- A 32-bit access to the block of R6 names what stands at its offset. -/
@[simp] theorem accessReg_params_w32 (off : BitVec 8) : accessReg params .w32 off = regAt params off := rfl

/-- A host write to a DATA word of the block of R6 keeps the low 16 bits. -/
@[simp] theorem writeReg_params_data (i : Fin dataCapacity) (v : Reg) (s : State) :
    writeReg params (.data i) v s = writeData i.val (v.setWidth 16) s := rfl

/-- An unaligned offset is MISALIGNED and no other is. -/
theorem regAt_eq_misaligned_iff (p : Params) (off : BitVec 8) :
    regAt p off = .error .misaligned ↔ off.toNat % 4 ≠ 0 := by
  unfold regAt
  split
  · next h => exact ⟨fun _ => h, fun _ => rfl⟩
  · next h =>
    refine ⟨fun e => ?_, fun e => absurd e h⟩
    split at e
    · cases e
    · split at e
      · cases e
      · split at e <;> cases e

/-- With eight channels the aligned offsets that name no register are UNMAPPED and no other is. -/
theorem regAt_eq_unmapped_iff {p : Params} (eight : p.channels = 8) (off : BitVec 8) : regAt p off = .error .unmapped ↔
    off.toNat % 4 = 0 ∧ (off.toNat = 0x1C ∨ 0x40 + 4 * p.maxWords ≤ off.toNat) := by
  unfold regAt
  split
  · next h => exact ⟨fun e => (by cases e), fun e => absurd e.1 h⟩
  · next h =>
    split
    · next ho => exact ⟨fun e => (by cases e), fun e => by unfold channelCapacity at ho; omega⟩
    · next ho =>
      split
      · next hd => exact ⟨fun e => (by cases e), fun e => by omega⟩
      · next hd =>
        unfold channelCapacity at ho
        split
        case h_8 h0 h1 h2 h3 h4 h5 h6 =>
          refine ⟨fun _ => ⟨by omega, ?_⟩, fun _ => rfl⟩
          rw [imp_false] at h0 h1 h2 h3 h4 h5 h6
          omega
        all_goals exact ⟨fun e => (by cases e), fun e => by omega⟩

/-- A READ on the block of R6 asks for three bytes a word. -/
@[simp] theorem rxCount_params (s : State) : rxCount params s = 3 * s.lNw.toNat := rfl

/-- What the Rx step does with its bytes, and what it leaves alone. -/
theorem receive_eq (p : Params) (r : List Byte) (s : State) :
    receive p r s = { s with
      frame := putFrame 0 r s.frame
      lCode := validate p r
      data := if validate p r = .ok then (commit r s).data else s.data
      dataValid := if validate p r = .ok then (commit r s).dataValid else s.dataValid
      phase := if 0 < p.postReadSettleMs then .post else .idle
      code := if 0 < p.postReadSettleMs then s.code else validate p r } := by
  unfold receive
  by_cases hv : validate p r = .ok
  · have k := writeDataFrom_congr (frameWords r) 0 (s := s)
      (t := { s with frame := putFrame 0 r s.frame, lCode := validate p r }) rfl rfl
    simp only [hv, if_true] at k ⊢
    unfold commit
    rw [writeDataFrom_eq, k.1, k.2]
    split <;> rfl
  · simp only [hv, if_false]
    split <;> rfl

/-! The agents' steps -/

/-- What one step can do to the block, `s` being the state its input has been taken from. -/
inductive Move (p : Params) (s : State) : State → Prop where
  /-- A write to a register of class RO, or nothing to do. -/
  | stay : Move p s s
  /-- A host violation. -/
  | raise (r : FaultReason) : Move p s (raiseFault r s)
  /-- A legal read. -/
  | read (v : Reg) : Move p s (observe v s)
  /-- A write to a register of class RW. -/
  | store (reg : HostReg) (v : Reg) (mine : HasReg p reg) (rw : accessOf reg = .rw) (idle : s.phase = .idle) :
      Move p s (writeReg p reg v s)
  /-- An illegal command word. -/
  | illegal (c : Reg) (e : DecodeError) (bad : decode c = .error e) (idle : s.phase = .idle) :
      Move p s (complete .illegalCmd (acceptWord c s))
  /-- A command. -/
  | command (c : Reg) (i : Instr) (t : State) (idle : s.phase = .idle) (word : decode c = .ok i)
      (run : run p i (acceptWord c s) = .next t) : Move p s t
  /-- The Tx step, its frame taken. -/
  | sent (tx : s.phase = .tx) : Move p s { issue (.busWrite s.lAddr (txFrame s)) s with phase := .settle }
  /-- The Tx step, failed. -/
  | sendFailed (tx : s.phase = .tx) :
      Move p s (complete .transportError (issue (.busWrite s.lAddr (txFrame s)) s))
  /-- The Settle step of a READ. -/
  | await (settle : s.phase = .settle) (op : s.lOp = opRead) : Move p s { s with phase := .rx }
  /-- The Settle step of an EXEC or WRITE. -/
  | settled (settle : s.phase = .settle) (op : s.lOp ≠ opRead) : Move p s (complete .ok s)
  /-- The Rx step, failed. -/
  | readFailed (rx : s.phase = .rx) : Move p s (complete .transportError (issue (.busRead s.lAddr (rxCount p s)) s))
  /-- The Rx step with its bytes. -/
  | received (rx : s.phase = .rx) (r : List Byte) (len : r.length = rxCount p s) :
      Move p s (receive p r (issue (.busRead s.lAddr (rxCount p s)) s))
  /-- The Post step. -/
  | posted (post : s.phase = .post) : Move p s (complete s.lCode s)

theorem txStep_move {p : Params} {ok : Bool} {s t : State} (tx : s.phase = .tx) (h : txStep ok s = .next t) :
    Move p s t := by
  simp only [txStep] at h
  split at h <;> cases h
  · exact .sent tx
  · exact .sendFailed tx

theorem settleStep_move {p : Params} {s t : State} (settle : s.phase = .settle) (h : settleStep s = .next t) :
    Move p s t := by
  simp only [settleStep] at h
  split at h <;> cases h
  · next hop => exact .await settle hop
  · next hop => exact .settled settle hop

theorem rxStep_move {p : Params} {a : Option (List Byte)} {s t : State} (rx : s.phase = .rx)
    (h : rxStep p a s = .next t) : Move p s t := by
  simp only [rxStep] at h
  split at h
  · cases h; exact .readFailed rx
  · next r =>
    split at h <;> cases h
    next hl => exact .received rx r hl

theorem postStep_move {p : Params} {s t : State} (post : s.phase = .post) (h : postStep s = .next t) :
    Move p s t := by
  cases h; exact .posted post

/-- A hold that ends has lasted its bound. -/
theorem endHold_next {bound ms : Nat} {r : Result} {t : State} (h : endHold bound ms r = .next t) :
    bound ≤ ms ∧ r = .next t := by
  unfold endHold at h
  split at h
  · next hb => exact ⟨hb, h⟩
  · cases h

/-- Every scheduled step is a move. -/
theorem takeEvent_move {p : Params} {e : Event} {s t : State} (h : takeEvent p e s = .next t) :
    Move p s t := by
  cases e with
  | hostRead w off =>
    obtain ⟨r, -, rfl⟩ | ⟨v, -, rfl⟩ := hostRead_cases w off s t h
    · exact .raise r
    · exact .read v
  | hostWrite w off v =>
    obtain ⟨r, -, rfl⟩ | ⟨reg, -, -, rfl⟩ | ⟨reg, -, -, -, rfl⟩ | ⟨reg, at_, rw', idle, rfl⟩ | ⟨reg, -, -, idle, hc⟩ :=
      hostWrite_cases w off v s t h
    · exact .raise r
    · exact .stay
    · exact .raise _
    · exact .store reg v ((accessReg_eq_ok_iff p w off reg).1 at_).2.2 rw' idle
    · obtain ⟨e, he, rfl⟩ | ⟨i, hi, run⟩ := commandWrite_cases v s t hc
      · exact .illegal v e he idle
      · exact .command v i t idle hi run
  | busWriteAnswer ok =>
    simp only [takeEvent] at h
    split at h
    · next tx => exact txStep_move tx h
    all_goals cases h
  | busReadAnswer a =>
    simp only [takeEvent] at h
    split at h
    · next rx => exact rxStep_move rx h
    all_goals cases h
  | settleElapsed ms =>
    simp only [takeEvent] at h
    split at h
    · next settle => exact settleStep_move settle (endHold_next h).2
    · next post => exact postStep_move post (endHold_next h).2
    all_goals cases h

/-- Every unscheduled step is a move, of the state itself or of the state with one more answer drawn. -/
theorem freeStep_move {p : Params} {s t : State} (h : freeStep p s = .next t) :
    Move p s t ∨ Move p (countDraw s) t := by
  unfold freeStep at h
  split at h
  · cases h; exact .inl .stay
  · next tx => exact .inr (txStep_move tx h)
  · next settle => exact .inl (settleStep_move settle h)
  · next rx => exact .inr (rxStep_move rx h)
  · next post => exact .inl (postStep_move post h)

/-- The state a step's input has been taken from. -/
def taken (s : State) : State := { s with events := s.events.tail }

/-- Every step of a block is a move. -/
theorem stepWith_move {p : Params} {s t : State} (h : stepWith p s = .next t) :
    Move p (taken s) t ∨ Move p (countDraw (taken s)) t := by
  unfold stepWith at h
  split at h
  · next e es he =>
    left
    have : taken s = { s with events := es } := by simp only [taken, he, List.tail_cons]
    rw [this]
    exact takeEvent_move h
  · next he =>
    have : taken s = s := by
      cases s
      simp only at he
      simp [taken, he]
    rw [this]
    exact freeStep_move h

/-- Every step is a move. -/
theorem step_move {s t : State} (h : step s = .next t) :
    Move params (taken s) t ∨ Move params (countDraw (taken s)) t := stepWith_move h

/-- A step with a scheduled input takes it. -/
theorem stepWith_of_event {p : Params} {s : State} {e : Event} {es : List Event} (he : s.events = e :: es) :
    stepWith p s = takeEvent p e { s with events := es } := by
  unfold stepWith
  rw [he]

theorem step_of_event {s : State} {e : Event} {es : List Event} (he : s.events = e :: es) :
    step s = takeEvent params e { s with events := es } := stepWith_of_event he

/-- A step with nothing scheduled is the enabled one. -/
theorem step_of_free {s : State} (he : s.events = []) : step s = freeStep params s := by
  unfold step stepWith
  rw [he]

end Sys2Proof.Machine
end

