-- ==== Sys2Proof/Tests/Slice0.lean ====
section
/-! SUPPORT. Tests of single steps against the vectors of 95_test_vectors.md, and for every statement with hypotheses
a state and operands that meet them. -/

open Sys2Proof Sys2Proof.Machine Sys2Proof.Rule

namespace Sys2Proof.Tests

/-! Small states -/

/-- A view of the next state, none where there is none. -/
def after {α : Type} (r : Result) (view : State → α) : Option α :=
  match r with
  | .next s => some (view s)
  | .fault _ => none
  | .refused _ => none

/-- The reset state with a schedule. -/
def fresh (es : List Event) : State := { State.reset with events := es }

/-- The reset state after DATA[0..] were written, with a schedule. -/
def loaded (ws : List Word) (es : List Event) : State := { writeDataFrom 0 ws State.reset with events := es }

/-- `read 0x0100, n` (CV8) in a phase, with a schedule. -/
def reading (n : BitVec 6) (p : Phase) (es : List Event) : State :=
  { startTx 2 (loadLatches params opRead 0x0100 n State.reset) with phase := p, events := es }

/-- `exec 0x1234` (CV1) in a phase, SETTLE being 100, with a schedule. -/
def executing (p : Phase) (es : List Event) : State :=
  { startTx 2 (loadLatches params opExec 0x1234 0 { State.reset with settle := 100 }) with phase := p, events := es }

/-- The state that waits to send CV5's frame, with a schedule. -/
def writing (es : List Event) : State :=
  match exec (.write 0xABCD 2) (loaded [0x0102, 0xFFEE] es) with
  | .next t => t
  | .fault _ => State.reset
  | .refused _ => State.reset

/-- The words of DV1. -/
def dv1 : List Word := [0x007C, 0x05F5, 0x0190, 0x01F4, 0x11D7, 0x1176, 0x03E8, 0x7FFF]

/-- The words of DV2. -/
def dv2 : List Word := [0x0000, 0x03E3, 0x0465, 0xFFFE, 0xFD12, 0xFF6A, 0xFFF1, 0xFFFF]

/-- OUT as numbers. -/
def outs (s : State) : List Int := s.out.toList.map (fun r => r.toInt)

/-! WellFormed refuses what its check names (R94) -/

theorem test_write_of_no_words_is_ill_formed : (Instr.write 0x0100 0).wellFormed params = false := by decide
theorem test_write_of_17_words_is_ill_formed : (Instr.write 0x0100 17).wellFormed params = false := by decide
theorem test_read_of_no_words_is_ill_formed : (Instr.read 0x0100 0).wellFormed params = false := by decide
theorem test_read_of_17_words_is_ill_formed : (Instr.read 0x0100 17).wellFormed params = false := by decide
theorem test_read_of_1_and_16_words_is_well_formed :
    (Instr.read 0x0100 1).wellFormed params = true ∧ (Instr.read 0x0100 16).wellFormed params = true := by decide

/-! Decoding: a word spelled out for every constructor (95_test_vectors 2.1, 2.2), written in the fields of R92 to R99 -/

theorem test_decode_crc8 : decode 0b10111110_11101111_000000000000_0001 = .ok (.crc8 0xBE 0xEF) := by decide
theorem test_decode_crcchk : decode 0b10111110_11101111_10010010_0000_0010 = .ok (.crcchk 0xBE 0xEF 0x92) := by decide
theorem test_decode_exec : decode 0b0001001000110100_000000000000_0011 = .ok (.exec 0x1234) := by decide
theorem test_decode_write : decode 0b1010101111001101_000010_000000_0100 = .ok (.write 0xABCD 2) := by decide
theorem test_decode_read : decode 0b0000001100000000_010000_000000_0101 = .ok (.read 0x0300 16) := by decide
theorem test_decode_sent : decode 0b0111111111111111_000000000000_0110 = .ok (.sent 0x7FFF) := by decide
theorem test_decode_scale : decode 0b0001000101110110_000000000_101_0111 = .ok (.scale .t 0x1176) := by decide
theorem test_decode_round_metric :
    decode 0b0001000101110110_000000_01_0_101_1000 = .ok (.roundMetric .t 0x1176) := by decide
theorem test_decode_round_imperial :
    decode 0b0001000101110110_000000_10_0_101_1000 = .ok (.roundImperial .t 0x1176) := by decide
theorem test_decode_decode_raw : decode 0b0000000000000000000000_00_0000_1001 = .ok .decodeRaw := by decide
theorem test_decode_decode_metric : decode 0b0000000000000000000000_01_0000_1001 = .ok .decodeMetric := by decide
theorem test_decode_decode_imperial : decode 0b0000000000000000000000_10_0000_1001 = .ok .decodeImperial := by decide

/-- Section 2.2's illegal words, each by the check that refuses it. -/
theorem test_decode_refuses :
    decode 0x00000000 = .error .reservedOp ∧ decode 0x0000000A = .error .reservedOp ∧
    decode 0x0000000F = .error .reservedOp ∧ decode 0xBEEF0011 = .error .reservedBits ∧
    decode 0xBEEF9212 = .error .reservedBits ∧ decode 0x12340403 = .error .reservedBits ∧
    decode 0x01000015 = .error .reservedBits ∧ decode 0x117600D7 = .error .reservedBits ∧
    decode 0x11760058 = .error .badRMode ∧ decode 0x11760358 = .error .badRMode ∧
    decode 0x00000309 = .error .badRMode ∧ decode 0x00010109 = .error .reservedBits := by decide

/-- The table's words with operand bits 0: WRITE and READ still decode, with NW 0. -/
theorem test_table_words : decodeTableWord 32 0x00000004 = some (.write 0 0) ∧
    decodeTableWord 32 0x00000005 = some (.read 0 0) ∧ decodeTableWord 32 0x00000108 = some (.roundMetric .pm1 0) ∧
    decodeTableWord 32 0x00000000 = none := by decide

/-! The CRC-8 engine (2.1) -/

theorem test_crc8 : after (step (State.reset.withFetchWord 32 0xBEEF0001)) (fun s => (s.result, statusWord s)) =
    some (0x92, 0) := by decide
theorem test_crc8_of_ones : after (exec (.crc8 0xFF 0xFF) State.reset) State.result = some 0xAC := by decide
theorem test_crcchk_matches : after (step (State.reset.withFetchWord 32 0xBEEF9202))
    (fun s => (s.result, statusWord s)) = some (0x92, 0x100) := by decide
theorem test_crcchk_mismatch_completes_ok : after (step (State.reset.withFetchWord 32 0xBEEF9302))
    (fun s => (s.result, statusWord s)) = some (0x92, 0) := by decide
theorem test_polynomial_core : crcPolyCore 0x80 0x00 = 0xA2 ∧ crcPolyRun 0xFF [0xAB, 0xCD, 0x6F] = 0 := by
  decide +kernel

/-! The codec (2.3) -/

/-- CV1: BUSY and TX, the opcode big-endian, the hold 100 ms. -/
theorem test_exec_accepts : after (exec (.exec 0x1234) { State.reset with settle := 100 })
    (fun s => (statusWord s, txFrame s, s.lSettle)) = some (0x003, [0x12, 0x34], 100) := by decide
/-- CV2, CV3: with SETTLE = 5 the hold is 20 ms; the address is BUSADDR's. -/
theorem test_exec_floor : after (exec (.exec 0x1234) { State.reset with settle := 5, busAddr := 0x6A })
    (fun s => (s.lSettle, s.lAddr)) = some (20, 0x6A) := by decide
/-- CV6. -/
theorem test_write_frame : after (exec (.write 0x6000 3) (loaded [0x0000, 0xFFFF, 0x8000] [])) txFrame =
    some [0x60, 0x00, 0x00, 0x00, 0x81, 0xFF, 0xFF, 0xAC, 0x80, 0x00, 0xA2] := by decide
/-- CV7. -/
theorem test_write_of_unwritten_word : after (exec (.write 0xABCD 2) (loaded [0x0102] []))
    (fun s => (s.fault, s.phase, s.bus)) = some (some .unwrittenData, .idle, []) := by decide
theorem test_read_accepts : after (exec (.read 0x0100 1) State.reset)
    (fun s => (statusWord s, txFrame s, s.lNw)) = some (0x003, [0x01, 0x00], 1) := by decide
/-- CV20. -/
theorem test_read_of_no_words : after (step (State.reset.withFetchWord 32 0x01000005))
    (fun s => (statusWord s, s.bus)) = some (0x050, []) := by decide
/-- CV5. -/
theorem test_tx_step : after (step (writing [.busWriteAnswer true])) (fun s => (statusWord s, s.bus)) =
    some (0x005, [.busWrite 0x69 [0xAB, 0xCD, 0x01, 0x02, 0x17, 0xFF, 0xEE, 0xDE]]) := by decide
/-- CV4: no hold. -/
theorem test_tx_step_fails : after (step (writing [.busWriteAnswer false])) statusWord = some 0x030 := by decide
theorem test_settle_step_of_read :
    after (step (reading 1 .settle [.settleElapsed 20])) statusWord = some 0x007 := by decide
theorem test_settle_step_of_exec :
    after (step (executing .settle [.settleElapsed 100])) statusWord = some 0 := by decide
/-- CV8. -/
theorem test_rx_step_commits : after (step (reading 1 .rx [.busReadAnswer (some [0xBE, 0xEF, 0x92])]))
    (fun s => (statusWord s, dataWord? s 0, dataWord? s 1, s.bus)) =
    some (0, some 0xBEEF, none, [.busRead 0x69 3]) := by decide
/-- CV16: word 0 is valid, word 1 is not, nothing is committed. -/
theorem test_rx_step_mismatch : after (step (reading 2 .rx [.busReadAnswer (some [0xFF, 0, 0, 0xFF, 0xFF, 0xFF])]))
    (fun s => (statusWord s, dataWord? s 0)) = some (0x010, none) := by decide
/-- CV10, CV12. -/
theorem test_validate_ones : validate params [0xFF, 0xFF, 0xFF] = .readUnavailable ∧
    validate params [0xFF, 0xFF, 0xFE] = .crcMismatch ∧ validate params [0xFF, 0xFF, 0xAC] = .ok := by decide
/-- CV17. -/
theorem test_rx_step_fails : after (step (reading 1 .rx [.busReadAnswer none])) statusWord = some 0x030 := by decide
/-- 2.3 "Phases": 0x009 comes before the end when the post hold is positive. -/
theorem test_post_hold_is_entered :
    after (stepWith { params with postReadSettleMs := 1 } (reading 1 .rx [.busReadAnswer (some [0xBE, 0xEF, 0x93])]))
      (fun s => (statusWord s, s.lCode)) = some (0x009, .crcMismatch) := by decide
theorem test_post_step :
    after (stepWith { params with postReadSettleMs := 1 }
      { reading 1 .post [.settleElapsed 1] with lCode := .crcMismatch }) statusWord = some 0x010 := by decide

/-! The measurement decoder (2.4, 3) -/

theorem test_sent : after (exec (.sent 0xFFFF) State.reset) statusWord = some 0x200 ∧
    after (exec (.sent 0x8000) State.reset) statusWord = some 0 := by decide
theorem test_scale_signed : after (exec (.scale .t 0x8000) State.reset) (fun s => (s.result, s.den)) =
    some (0xFFFF8000, 200) := by decide
theorem test_scale_sentinel : after (exec (.scale .rh 0xFFFF) State.reset)
    (fun s => (s.result, s.den, s.unknown)) = some (0, 100, true) := by decide
/-- 12.5, a tie, to the even multiple. -/
theorem test_round_metric_tie : after (exec (.roundMetric .pm1 125) State.reset) (fun s => (s.result, s.den)) =
    some (10, 1) := by decide
/-- -0.75 degrees, a tie below zero, in half degrees. -/
theorem test_round_metric_half_degrees : after (exec (.roundMetric .t 0xFF6A) State.reset)
    (fun s => (s.result, s.den)) = some (0xFFFFFFFE, 2) := by decide
theorem test_round_imperial : after (exec (.roundImperial .t 0x1176) State.reset) (fun s => (s.result, s.den)) =
    some (72, 1) := by decide
/-- -42.5 degrees is -44.5 Fahrenheit; -163.84 is -262.912. -/
theorem test_round_imperial_below_zero : after (exec (.roundImperial .t 0xDECC) State.reset) State.result =
      some (BitVec.ofInt 32 (-44)) ∧
    after (exec (.roundImperial .t 0x8000) State.reset) State.result = some (BitVec.ofInt 32 (-263)) := by decide
/-- The other tie rule, on section 3's rows. -/
theorem test_round_half_up : chan .halfUp .pm1 125 .metric = (false, 15) ∧ chan .halfUp .pm4 125 .metric = (false, 25) ∧
    chan .halfUp .t 0xFF6A .metric = (false, -1) ∧ chan .halfUp .voc 0xFFFB .metric = (false, 0) := by decide
/-- 99.5 rounds by fives, 155.0 by tens; 112.5 by twenty-fives, a tie. -/
theorem test_round_particulates : chan .even .pm2p5 995 .metric = (false, 100) ∧
    chan .even .pm1 1550 .metric = (false, 160) ∧ chan .even .pm10 1125 .metric = (false, 100) ∧
    chan .even .rh 0xFD12 .metric = (false, -10) ∧ chan .even .nox 0x8000 .metric = (false, -3277) := by decide
/-- DV1. -/
theorem test_decode_raw : after (exec .decodeRaw (loaded dv1 [])) (fun s => (outs s, s.unkMask, statusWord s)) =
    some ([124, 1525, 400, 500, 4567, 4470, 1000, 0], 0x80, 0x200) := by decide
/-- DV2. -/
theorem test_decode_metric : after (exec .decodeMetric (loaded dv2 [])) (fun s => (outs s, s.unkMask)) =
    some ([0, 100, 100, 6550, -10, -2, -2, 0], 0x80) := by decide
/-- DV2. -/
theorem test_decode_imperial : after (exec .decodeImperial (loaded dv2 [])) (fun s => (outs s, s.unkMask)) =
    some ([0, 100, 100, 6550, -10, 31, -2, 0], 0x80) := by decide
/-- DV5. -/
theorem test_decode_of_unwritten_data : after (exec .decodeRaw (loaded (dv1.take 7) [])) State.fault =
    some (some .unwrittenData) := by decide

/-! The host's port -/

theorem test_read_only_write_is_ignored : after (step (fresh [.hostWrite .w32 0x08 5])) (fun s => (s.result, s.fault)) =
    some (0, none) := by decide
theorem test_reserved_bits_are_dropped : after (step (fresh [.hostWrite .w32 0x14 0xFFFFFFEA])) State.busAddr =
    some 0x6A := by decide
/-- R28, R31 to R36, R80: a read returns its own register and no other. -/
theorem test_reads_return_their_registers : (([.cmd, .result, .den, .settle, .busAddr, .unkMask, .out 0, .out 7] : List HostReg).map
      fun r => after (step { State.reset with
        cmd := 1, result := 2, den := 10, settle := 30, busAddr := 0x55, unkMask := 0x80
        out := #v[100, 101, 102, 103, 104, 105, 106, 107], events := [.hostRead .w32 (offsetOf r)] }) State.observed) =
    [some [1], some [2], some [10], some [30], some [0x55], some [0x80], some [100], some [107]] := by decide

theorem test_read_of_status_while_busy : after (step (reading 1 .rx [.hostRead .w32 0x04])) State.observed =
    some [0x007] := by decide
theorem test_write_while_busy : after (step (reading 1 .rx [.hostWrite .w32 0x10 5])) (fun s => (s.fault, s.settle)) =
    some (some .writeWhileBusy, 20) := by decide
theorem test_unmapped : after (step (fresh [.hostRead .w32 0x1C])) State.fault = some (some .unmapped) := by decide
theorem test_last_data_word_is_mapped : regAt params 0x7C = .ok (.data 15) ∧ regAt params 0x80 = .error .unmapped := by decide

/-! The assembler (R103 to R105) -/

/-- Program P2's encoding. -/
theorem test_program_encoding : programEncoding [.sw .settle 50, .sw (.data 0) 0x0102, .sw (.data 1) 0xFFEE,
    .command (.write 0xABCD 2), .transportWrote true, .settleElapsed 50, .poll 1] =
    some [0x32, 0x102, 0xFFEE, 0xABCD0804] := by decide
theorem test_assembler_refuses : assemble (.scale (.number 8) 0) = none ∧ assemble (.write 0x0100 64) = none := by decide

/-! ## Witnesses: for each statement with hypotheses, a state and operands that meet them together -/

/-! Encoding -/

theorem witness_decodedWord : decode 0x117600D8 = .error .reservedBits ∧
    decode 0x11760258 = .ok (.roundImperial .t 0x1176) := by decide

theorem witness_cmdWrite (c : Reg) (es : List Event := []) : CmdWrite (fresh (.hostWrite .w32 0x00 c :: es)) c es :=
  ⟨⟨rfl, rfl⟩, rfl⟩

theorem witness_illegal_op_0 : Illegal 0x00000000 := .inl (.inl (by decide))
theorem witness_illegal_op_A_and_F : Illegal 0x0000000A ∧ Illegal 0x0000000F :=
  ⟨.inl (.inr (by decide)), .inl (.inr (by decide))⟩
/-- A reserved bit at each end of a format's ranges. -/
theorem witness_illegal_reserved_bit :
    Illegal 0xBEEF0011 ∧ Illegal 0xBEEF8001 ∧ Illegal 0xBEEF9282 ∧ Illegal 0x117600D7 ∧ Illegal 0x80000109 :=
  ⟨.inr (.inl ⟨4, .inl (by decide), by decide⟩), .inr (.inl ⟨15, .inl (by decide), by decide⟩),
    .inr (.inl ⟨7, .inr (.inl (by decide)), by decide⟩),
    .inr (.inl ⟨7, .inr (.inr (.inr (.inr (.inr (.inr (.inl (by decide))))))), by decide⟩),
    .inr (.inl ⟨31, .inr (.inr (.inr (.inr (.inr (.inr (.inr (.inr (by decide)))))))), by decide⟩)⟩
theorem witness_illegal_rmode : Illegal 0x11760358 ∧ Illegal 0x00000309 ∧ Illegal 0x11760058 :=
  ⟨.inr (.inr (.inl (by decide))), .inr (.inr (.inl (by decide))), .inr (.inr (.inr (by decide)))⟩

/-- NW at 0, 17 and 63, in words that are not illegal. -/
theorem witness_badCount :
    (BadCount 0x01000005 ∧ ¬ Illegal 0x01000005) ∧ (BadCount 0x01004405 ∧ ¬ Illegal 0x01004405) ∧
    (BadCount 0x0100FC04 ∧ ¬ Illegal 0x0100FC04) := by
  have legal : ∀ c : Reg, (op c = 4 ∨ op c = 5) → (∀ k, 4 ≤ k → k ≤ 9 → c.getLsbD k = false) → ¬ Illegal c := by
    rintro c h hb (h1 | ⟨k, hk, h2⟩ | h1 | h1)
    · omega
    · rw [hb k (by unfold ReservedBit at hk; omega) (by unfold ReservedBit at hk; omega)] at h2
      cases h2
    · omega
    · omega
  have low : ∀ c : Reg, c &&& 0x3F0 = 0 → ∀ k, 4 ≤ k → k ≤ 9 → c.getLsbD k = false := by
    intro c h k h1 h2
    have := congrArg (fun x => x.getLsbD k) h
    simp only [BitVec.getLsbD_and] at this
    interval_cases k <;> simpa using this
  exact ⟨⟨⟨by decide, by decide⟩, legal _ (by decide) (low _ (by decide))⟩,
    ⟨⟨by decide, by decide⟩, legal _ (by decide) (low _ (by decide))⟩,
    ⟨⟨by decide, by decide⟩, legal _ (by decide) (low _ (by decide))⟩⟩

theorem witness_pseudo : 0xFFFF < 2 ^ 16 ∧ 2 ^ 16 ≤ 0x10000 ∧
    assemble (.crc8w 0xBEEF) = some (.crc8 0xBE 0xEF) ∧ assemble (.crc8w 0x10000) = none ∧
    assemble (.crcchkw 0x10000 0x92) = none ∧ assemble (.crcchkw 0xBEEF 0x100) = none ∧
    assemble (.crcchkw 0xFFFF 0xFF) = some (.crcchk 0xFF 0xFF 0xFF) ∧
    assemble (.round (.number 7) 0xFFFF) = some (.roundMetric .nox 0xFFFF) ∧
    assemble (.round (.number 8) 0) = none ∧ assemble (.round (.name .t) 0x10000) = none := by decide

theorem witness_stepRuns : CmdWrite (fresh [.hostWrite .w32 0x00 0xBEEF0001]) 0xBEEF0001 [] ∧
    decode 0xBEEF0001 = .ok (.crc8 0xBE 0xEF) := ⟨witness_cmdWrite _, by decide⟩

/-! Faults and the port -/

/-- A marked state steps, the mark staying, and records the reason of a later violation. -/
theorem witness_faulted : (raiseFault .unmapped (fresh [.hostRead .w32 0x04])).fault = some .unmapped ∧
    after (step (raiseFault .unmapped (fresh [.hostRead .w32 0x04]))) (fun t => (t.fault, t.observed)) =
      some (some .unmapped, [0]) ∧
    after (step (raiseFault .unmapped (fresh [.hostRead .w8 0x04]))) State.fault = some (some .badWidth) := by decide
/-- A marked state may be refused as well. -/
theorem witness_faulted_refused :
    step (raiseFault .unmapped (fresh [.settleElapsed 20])) = .refused .stepNotEnabled := rfl

/-- Each reason is raised by some step, at the edges of its cause, and not beside it. -/
theorem witness_faultsRaised :
    after (step (fresh [.hostRead .w32 (offsetOf (.data 15))])) State.fault = some (some .unwrittenData) ∧
    after (step (loaded dv1 [.hostRead .w32 (offsetOf (.data 7))])) State.fault = some none ∧
    after (step (loaded (dv1.take 7) [.hostWrite .w32 0x00 0x00000109])) State.fault = some (some .unwrittenData) ∧
    after (step (loaded dv1 [.hostWrite .w32 0x00 0x00002004])) State.fault = some none ∧
    after (step (loaded dv1 [.hostWrite .w32 0x00 0x00002404])) State.fault = some (some .unwrittenData) ∧
    after (step (reading 1 .tx [.hostWrite .w32 0x18 1])) State.fault = some none ∧
    after (step (fresh [.hostWrite .w64 0x00 1])) State.fault = some (some .badWidth) ∧
    after (step (fresh [.hostRead .w32 0x02])) State.fault = some (some .misaligned) ∧
    after (step (fresh [.hostRead .w32 0xFC])) State.fault = some (some .unmapped) ∧
    after (step (reading 1 .post [.hostWrite .w32 0x7C 1])) State.fault = some (some .writeWhileBusy) ∧
    after (step (fresh [.hostWrite .w32 0x00 0x00000004])) State.fault = some none ∧
    after (step (fresh [.hostWrite .w32 0x00 0x00000404])) State.fault = some (some .unwrittenData) := by decide

theorem witness_mapped : Mapped .cmd ∧ Mapped (.data 15) ∧ ¬ Mapped (.data 16) :=
  ⟨fun i h => (by cases h), fun i h => (by cases h; decide), fun h => absurd (h 16 rfl) (by decide)⟩

theorem crcTable_length : crcTable.length = 256 := by decide +kernel

/-- Blocks of 16, 17 and 48 words, and blocks with either engine. -/
theorem witness_legal : params.Legal ∧ { params with maxWords := 17 }.Legal ∧
    { params with maxWords := 48, minSettleMs := 30 }.Legal ∧ { params with crcImpl := .poly }.Legal ∧
    { params with crcTable := List.replicate 256 0 }.Legal :=
  ⟨⟨by decide, crcTable_length, nofun, by decide, rfl, rfl, rfl⟩,
    ⟨by decide, crcTable_length, nofun, by decide, rfl, rfl, rfl⟩,
    ⟨by decide, crcTable_length, nofun, by decide, rfl, rfl, rfl⟩,
    ⟨by decide, crcTable_length, fun _ => rfl, by decide, rfl, rfl, rfl⟩,
    ⟨by decide, List.length_replicate, nofun, by decide, rfl, rfl, rfl⟩⟩

/-- R123: a POLY block has R121's table and no other. -/
theorem test_poly_needs_the_table : ¬ { params with crcImpl := .poly, crcTable := List.replicate 256 0 }.Legal :=
  fun h => absurd (congrArg (fun rom => rom.getD 1 0) (h.poly rfl)) (by decide)

/-- R6, R61: a legal access is as wide as a register, and DATA keeps the bits of a word. -/
theorem test_widths_are_arguments : accessReg { params with regWidth := 16 } .w32 0x00 = .error .badWidth ∧
    after (hostWrite { params with wordWidth := 8 } .w32 0x40 0xFFFFABCD State.reset) (dataWord? · 0) = some (some 0xCD) ∧
    ({ params with wordWidth := 8 }.frameBytes, params.frameBytes) = (34, 50) := by decide

/-- R6, R205: a block of fewer channels has their OUT registers and needs their words only. -/
theorem test_channels_are_an_argument : regAt { params with channels := 4 } 0x30 = .error .unmapped ∧
    after (run { params with channels := 4 } .decodeRaw (loaded (dv1.take 4) [])) (fun t => (t.fault, t.out.get 3)) =
      some (none, 0x01F4) := by decide

theorem witness_registerMap : regAt { params with maxWords := 17 } 0x80 = .ok (.data 16) ∧
    regAt { params with maxWords := 17 } 0x84 = .error .unmapped ∧
    regAt { params with maxWords := 48 } 0xFC = .ok (.data 47) ∧
    regAt { params with maxWords := 48 } 0x1C = .error .unmapped ∧
    regAt params 0x18 = .ok .unkMask ∧ regAt params 0x20 = .ok (.out 0) ∧ regAt params 0x3C = .ok (.out 7) ∧
    regAt params 0x40 = .ok (.data 0) ∧ (0x7C : BitVec 8).toNat % 4 = 0 ∧ (0x7C : BitVec 8).toNat < 0x80 ∧
    (0x7C : BitVec 8).toNat ≠ 0x1C := by decide

theorem witness_illegalAccess_width :
    Next (fresh [.hostRead .w8 0x00]) (.hostRead .w8 0x00) [] ∧ AccessWidth.w8 ≠ .w32 := ⟨⟨rfl, rfl⟩, by decide⟩
theorem witness_illegalAccess_alignment :
    Next (fresh [.hostWrite .w32 0x7E 1]) (.hostWrite .w32 0x7E 1) [] ∧ (0x7E : BitVec 8).toNat % 4 ≠ 0 :=
  ⟨⟨rfl, rfl⟩, by decide⟩
theorem witness_illegalAccess_unmapped :
    (Next (fresh [.hostRead .w32 0x1C]) (.hostRead .w32 0x1C) [] ∧ (0x1C : BitVec 8).toNat = 0x1C) ∧
    (Next (fresh [.hostWrite .w32 0x80 1]) (.hostWrite .w32 0x80 1) [] ∧ 0x80 ≤ (0x80 : BitVec 8).toNat ∧
      (0x80 : BitVec 8).toNat % 4 = 0) := ⟨⟨⟨rfl, rfl⟩, by decide⟩, ⟨rfl, rfl⟩, by decide⟩

theorem witness_hostAccess_read : Next (fresh [.hostRead .w32 (offsetOf .den)]) (.hostRead .w32 (offsetOf .den)) [] ∧
    holds (fresh [.hostRead .w32 (offsetOf .den)]) .den = some 1 ∧
    holds (loaded dv1 []) (.data 0) = some 0x007C ∧ holds (loaded dv1 []) (.data 8) = none :=
  ⟨⟨rfl, rfl⟩, rfl, by decide, by decide⟩
theorem witness_hostAccess_readOnly : accessOf (.out 7) = .ro ∧
    Next (reading 1 .tx [.hostWrite .w32 (offsetOf (.out 7)) 1]) (.hostWrite .w32 (offsetOf (.out 7)) 1) [] :=
  ⟨rfl, rfl, rfl⟩
theorem witness_hostAccess_write (r : HostReg) (v : Reg) :
    Next (fresh [.hostWrite .w32 (offsetOf r) v]) (.hostWrite .w32 (offsetOf r) v) [] ∧
    (fresh [.hostWrite .w32 (offsetOf r) v]).phase = .idle := ⟨⟨rfl, rfl⟩, rfl⟩
theorem witness_hostAccess_decides :
    after (step (fresh [.hostWrite .w32 (offsetOf .settle) 0xFFFF0064])) State.settle = some 100 ∧
    after (step (fresh [.hostWrite .w32 (offsetOf (.data 15)) 0x1FFEE])) (fun t => dataWord? t 15) = some (some 0xFFEE)
    := by decide

theorem witness_reservedBits : accessOf (.data 0) = .rw ∧ (fresh []).phase = .idle ∧
    Next (fresh [.hostWrite .w32 (offsetOf (.data 0)) 0xFFFFFFFF, .hostRead .w32 (offsetOf (.data 0))])
      (.hostWrite .w32 (offsetOf (.data 0)) 0xFFFFFFFF) [.hostRead .w32 (offsetOf (.data 0))] ∧
    readReg .status (reading 1 .rx []) = .ok 7 := ⟨rfl, rfl, ⟨rfl, rfl⟩, by decide⟩

theorem witness_busy_write : (reading 1 .tx []).phase ≠ .idle ∧ accessOf .cmd ≠ .ro ∧ accessOf (.data 15) ≠ .ro ∧
    Next (reading 1 .tx [.hostWrite .w32 (offsetOf .cmd) 1]) (.hostWrite .w32 (offsetOf .cmd) 1) [] :=
  ⟨by decide, by decide, by decide, rfl, rfl⟩
theorem witness_busy_read :
    Next (reading 1 .settle [.hostRead .w32 (offsetOf .status)]) (.hostRead .w32 (offsetOf .status)) [] ∧
    readReg .status (reading 1 .settle [.hostRead .w32 (offsetOf .status)]) = .ok 5 := ⟨⟨rfl, rfl⟩, by decide⟩
theorem witness_busy_step : (reading 1 .settle [.settleElapsed 20]).phase ≠ .idle ∧
    after (step (reading 1 .settle [.settleElapsed 20])) State.phase = some .rx := by decide

/-- In RX a host's violation leaves DATA alone. -/
theorem witness_busy_rx_step : (reading 1 .rx [.hostRead .w8 0x00]).phase ≠ .idle ∧
    (∃ e rest, (reading 1 .rx [.hostRead .w8 0x00]).events = e :: rest ∧ ∀ a, e ≠ .busReadAnswer a) ∧
    after (step (reading 1 .rx [.hostRead .w8 0x00])) State.fault = some (some .badWidth) :=
  ⟨by decide, ⟨_, _, rfl, fun a h => (by cases h)⟩, by decide⟩
theorem witness_readOfUnwritten : (15 : Fin dataCapacity).val < 16 ∧ (fresh []).dataValid.get 15 = false ∧
    Next (fresh [.hostRead .w32 (offsetOf (.data 15))]) (.hostRead .w32 (offsetOf (.data 15))) [] :=
  ⟨by decide, by decide, rfl, rfl⟩

/-! The engine and the decoder -/

theorem witness_oneWrongByte : tripleValid params (0xBE, 0xEF, 0x92) = true ∧ tripleValid params (0xBF, 0xEF, 0x92) = false ∧
    tripleValid params (0xBE, 0xEE, 0x92) = false ∧ tripleValid params (0xBE, 0xEF, 0x93) = false := by decide

/-- A tie: 5/2. -/
theorem witness_rounding : 0 < 2 ∧ |((5 : ℤ) : ℚ) / (2 : ℕ) - ((Machine.roundTies .even 5 2 : ℤ) : ℚ)| = 1 / 2 ∧
    Machine.roundTies .even 5 2 = 2 ∧ Machine.roundTies .halfUp 5 2 = 3 := by
  have e : Machine.roundTies .even 5 2 = 2 := by decide
  refine ⟨by decide, ?_, e, by decide⟩
  rw [e]
  norm_num

theorem witness_sentinel : Sentinel 0x7FFF ∧ Sentinel 0xFFFF ∧ ¬ Sentinel 0x7FFE ∧ ¬ Sentinel 0x8000 := by
  unfold Sentinel; decide

theorem witness_round_instr : (RMode.metric = .metric ∧ Instr.roundMetric .t 0x1176 = .roundMetric .t 0x1176) ∧
    (RMode.imperial = .imperial ∧ Instr.roundImperial .t 0x1176 = .roundImperial .t 0x1176) := by decide

theorem witness_decode_data : DataHeld (loaded dv1 []) 8 := by
  intro i hi; interval_cases i <;> decide
theorem witness_decode_sentinel_and_number : dataWord? (loaded dv1 []) (channelNumber .nox) = some 0x7FFF ∧
    dataWord? (loaded dv1 []) (channelNumber .t) = some 0x1176 := by decide
theorem witness_decode_unwritten : ¬ DataHeld (loaded (dv1.take 7) []) 8 := fun h => absurd (h 7 (by decide)) (by decide)

/-! The codec -/

theorem witness_read_counts : 1 ≤ (1 : BitVec 6).toNat ∧ (1 : BitVec 6).toNat ≤ 16 ∧ 1 ≤ (16 : BitVec 6).toNat ∧
    (16 : BitVec 6).toNat ≤ 16 := by decide
theorem witness_write_1_word : 1 ≤ (1 : BitVec 6).toNat ∧ (1 : BitVec 6).toNat ≤ 16 ∧
    DataHeld (loaded dv1 []) (1 : BitVec 6).toNat :=
  ⟨by decide, by decide, fun i hi => by have : i < 1 := hi; interval_cases i; decide⟩
theorem witness_write_16_words : DataHeld (loaded (dv1 ++ dv2) []) (16 : BitVec 6).toNat := by
  intro i hi
  have : i < 16 := hi
  interval_cases i <;> decide
theorem witness_write_unwritten : ¬ DataHeld (loaded [0x0102] []) (2 : BitVec 6).toNat :=
  fun h => absurd (h 1 (by decide)) (by decide)
theorem witness_badWordCount (opc : Word) : (0 : BitVec 6).toNat = 0 ∧ 16 < (17 : BitVec 6).toNat ∧
    CmdWrite (fresh [.hostWrite .w32 0x00 (encode (.write opc 17))]) (encode (.write opc 17)) [] :=
  ⟨by decide, by decide, witness_cmdWrite _⟩

theorem witness_tx : (reading 1 .tx []).phase = .tx ∧
    Next (reading 1 .tx [.busWriteAnswer true]) (.busWriteAnswer true) [] ∧
    Next (reading 1 .tx [.busWriteAnswer false]) (.busWriteAnswer false) [] := ⟨rfl, ⟨rfl, rfl⟩, rfl, rfl⟩
theorem witness_settle_early : (executing .settle []).phase = .settle ∧ 99 < (executing .settle []).lSettle.toNat ∧
    Next (executing .settle [.settleElapsed 99]) (.settleElapsed 99) [] := ⟨rfl, by decide, rfl, rfl⟩
theorem witness_settle_ends : (executing .settle []).lSettle.toNat ≤ 100 ∧ (executing .settle []).lOp ≠ 5 ∧
    (reading 1 .settle []).lSettle.toNat ≤ 20 ∧ (reading 1 .settle []).lOp = 5 := by decide
theorem witness_rx_answers (a : Option (List Byte)) : (reading 1 .rx [.busReadAnswer a]).phase = .rx ∧
    nwLegal params (reading 1 .rx [.busReadAnswer a]).lNw = true ∧
    Next (reading 1 .rx [.busReadAnswer a]) (.busReadAnswer a) [] := ⟨rfl, rfl, rfl, rfl⟩
theorem witness_rx_length : ∀ r, some [0xFF, 0xFF, 0xFF] = some r → r.length = 3 * (reading 1 .rx []).lNw.toNat := by
  intro r h; cases h; decide
theorem witness_rx_16_words : nwLegal params (reading 16 .rx []).lNw = true ∧
    (List.replicate 48 (0xFF : Byte)).length = 3 * (reading 16 .rx []).lNw.toNat := by decide
theorem witness_post : (reading 1 .post []).phase = .post ∧
    Next (reading 1 .post [.settleElapsed 1]) (.settleElapsed 1) [] ∧ (1 : Nat) ≤ 1 ∧ (1 : Nat) < 2 ∧
    ([0xBE, 0xEF, 0x92] : List Byte).length = params.wireBytes * (reading 1 .post []).lNw.toNat := ⟨rfl, ⟨rfl, rfl⟩, by decide⟩

/-- CV6 and CV13. -/
theorem witness_roundTrip : exec (.write 0xABCD 2) (loaded [0x0102, 0xFFEE] []) = .next (writing []) ∧
    (reading 2 .rx []).phase = .rx ∧ (reading 2 .rx []).lNw = 2 ∧
    Next (reading 2 .rx [.busReadAnswer (some ((txFrame (writing [])).drop 2))])
      (.busReadAnswer (some ((txFrame (writing [])).drop 2))) [] ∧
    DataHeld (loaded [0x0102, 0xFFEE] []) (2 : BitVec 6).toNat :=
  ⟨rfl, rfl, rfl, ⟨rfl, rfl⟩, fun i hi => by have : i < 2 := hi; interval_cases i <;> decide⟩

theorem witness_notEnabled : (fresh []).phase ≠ .tx ∧ (fresh []).phase ≠ .rx ∧ (fresh []).phase ≠ .settle ∧
    (fresh []).phase ≠ .post ∧ Next (fresh [.busWriteAnswer true]) (.busWriteAnswer true) [] ∧
    Next (fresh [.busReadAnswer none]) (.busReadAnswer none) [] ∧
    Next (fresh [.settleElapsed 20]) (.settleElapsed 20) [] :=
  ⟨by decide, by decide, by decide, by decide, ⟨rfl, rfl⟩, ⟨rfl, rfl⟩, rfl, rfl⟩

/-! The whole machine -/

/-- The parts of the invariant that are closed facts of a state. -/
theorem inv_of (s : State) (reads : ReadsLegal s) (den : s.den = 1) (result : s.result = 0)
    (out : s.out = Vector.replicate channelCapacity 0) (op : s.lOp = opExec ∨ s.lOp = opWrite ∨ s.lOp = opRead)
    (words : if s.lOp = opExec then s.lNw = 0 else nwLegal params s.lNw = true) (settle : 20 ≤ s.lSettle.toNat)
    (frame : txFrame s = expectedFrame params s) (len : s.lTxLen.toNat ≤ 50)
    (valid : ∀ i : Fin dataCapacity, 16 ≤ i.val → s.dataValid[i] = false) (rx : s.phase = .rx → s.lOp = opRead)
    (post : s.phase ≠ .post) : Inv params s where
  reads := reads
  den := .inl den
  result := by rw [result]; unfold InNumeratorRange; decide
  out := by
    rw [out]
    intro i
    have : (Vector.replicate channelCapacity (0 : Reg)).get i = 0 := by simp [Vector.get]
    rw [this]
    unfold InNumeratorRange
    decide
  words := by
    intro i hi
    have h16 : 16 ≤ i := hi
    unfold dataWord?
    split
    · next h =>
      have : s.dataValid[i] = false := valid ⟨i, h⟩ h16
      rw [this]
      rfl
    · rfl
  latches := fun _ => ⟨op, words, settle⟩
  frame := fun _ => ⟨frame, len⟩
  rx := rx
  post := fun h => absurd h post

/-- The schedule is no part of the invariant. -/
theorem inv_scheduled {s : State} (h : Inv params s) (es : List Event) : Inv params { s with events := es } :=
  ⟨⟨h.reads.busyBit, h.reads.phaseField, h.reads.codeField, h.reads.maskField⟩, h.den, h.result, h.out, h.words,
    fun hb => ⟨(h.latches hb).op, (h.latches hb).words, (h.latches hb).settle⟩, h.frame, h.rx, h.post⟩

theorem inv_reading (p : Phase) (es : List Event) (hp : p ≠ .post) : Inv params (reading 1 p es) := by
  have : Inv params (reading 1 p []) := by
    cases p
    case post => exact absurd rfl hp
    all_goals
      exact inv_of _ ⟨by decide, by decide, by decide, fun v h => by cases h; decide⟩ rfl rfl rfl (.inr (.inr rfl)) rfl
        (by decide) (by decide) (by decide) (by decide) (fun _ => rfl) (by decide)
  exact inv_scheduled this es

theorem inv_executing (es : List Event) : Inv params (executing .tx es) := by
  have : Inv params (executing .tx []) :=
    inv_of _ ⟨by decide, by decide, by decide, fun v h => by cases h; decide⟩ rfl rfl rfl (.inl rfl) rfl (by decide)
      (by decide) (by decide) (by decide) (fun h => by cases h) (by decide)
  exact inv_scheduled this es

theorem inv_writing : Inv params (writing [.busWriteAnswer true]) ∧ Inv params (writing [.busWriteAnswer false]) := by
  constructor
  all_goals
    exact inv_of _ ⟨by decide, by decide, by decide, fun v h => by cases h; decide⟩ rfl rfl rfl (.inr (.inl rfl)) rfl
      (by decide) (by decide) (by decide) (by decide) (fun h => by cases h) (by decide)

/-- An invariant state takes a step in each phase. -/
theorem witness_everyStep :
    (Inv params (reading 1 .idle [.hostWrite .w32 0x00 0xBEEF0001]) ∧
      after (step (reading 1 .idle [.hostWrite .w32 0x00 0xBEEF0001])) State.result = some 0x92) ∧
    (Inv params (writing [.busWriteAnswer true]) ∧ after (step (writing [.busWriteAnswer true])) State.phase = some .settle) ∧
    (Inv params (reading 1 .rx [.busReadAnswer none]) ∧
      after (step (reading 1 .rx [.busReadAnswer none])) State.phase = some .idle) :=
  ⟨⟨inv_reading _ _ (by decide), by decide⟩, ⟨inv_writing.1, by decide⟩, inv_reading _ _ (by decide), by decide⟩

/-- A command fails later, and one fails in its CMD write. -/
theorem witness_failed :
    after (step (reading 1 .rx [.busReadAnswer none])) (fun t => (t.phase, t.code)) = some (.idle, .transportError) ∧
    (reading 1 .rx []).phase ≠ .idle ∧
    after (step (fresh [.hostWrite .w32 0x00 0x0000000A])) (fun t => (t.phase, t.code)) = some (.idle, .illegalCmd) ∧
    CmdWrite (fresh [.hostWrite .w32 0x00 0x0000000A]) 0x0000000A [] :=
  ⟨by decide, by decide, by decide, witness_cmdWrite _⟩

/-- A command runs its course and ends in another code than OK. -/
theorem witness_course :
    let s := fresh [.hostWrite .w32 0x00 0x12340003, .hostRead .w32 0x04, .busWriteAnswer false]
    CmdWrite s 0x12340003 [.hostRead .w32 0x04, .busWriteAnswer false] ∧
    (∃ t, Course s t ∧ t.phase ≠ .idle ∧ t.phase ≠ .post) ∧
    (∃ t, Course s t ∧ t.phase = .idle ∧ t.code ≠ .ok) := by
  intro s
  have a : Course s _ := .accepted rfl
  have b : Course s _ := .goesOn a (by decide) rfl
  exact ⟨witness_cmdWrite _ _, ⟨_, b, by decide, by decide⟩, ⟨_, .goesOn b (by decide) rfl, by decide, by decide⟩⟩

theorem witness_commandFrame (i : Instr) :
    CmdWrite (fresh [.hostWrite .w32 0x00 (encode i)]) (encode i) [] ∧ (∀ a b, Instr.sent 0 ≠ .crc8 a b) ∧
    (∀ m, Instr.sent 0 ≠ decodeOf m) ∧ (∀ a, Instr.decodeRaw ≠ .exec a) :=
  ⟨witness_cmdWrite _, fun _ _ h => (by cases h), fun m h => (by cases m <;> cases h), fun _ h => (by cases h)⟩
theorem witness_commandFrame_steps :
    after (step (fresh [.hostWrite .w32 0x00 (encode (.sent 0x7FFF))])) State.unknown = some true := by decide

/-- A frame of each kind, and the read. -/
theorem witness_transactions :
    (Inv params (executing .tx [.busWriteAnswer true]) ∧ (executing .tx []).lOp ≠ 4 ∧
      after (step (executing .tx [.busWriteAnswer true])) (fun t => t.bus.length) = some 1) ∧
    (Inv params (writing [.busWriteAnswer false]) ∧ (writing []).lOp = 4 ∧
      after (step (writing [.busWriteAnswer false])) (fun t => t.bus.length) = some 1) ∧
    (Inv params (reading 1 .rx [.busReadAnswer none]) ∧
      after (step (reading 1 .rx [.busReadAnswer none])) State.bus = some [.busRead 0x69 3]) :=
  ⟨⟨inv_executing _, by decide, by decide⟩, ⟨inv_writing.2, by decide, by decide⟩,
    inv_reading _ _ (by decide), by decide⟩

theorem witness_running : (reading 1 .tx [.busWriteAnswer true]).fault = none ∧
    (reading 1 .tx [.busWriteAnswer true]).phase ≠ .idle ∧
    after (step (reading 1 .tx [.busWriteAnswer true])) (fun t => (t.phase, t.lNw)) = some (.settle, 1) := by decide

/-- States that differ in FRAME, in the latches and in an unwritten word, in IDLE and in TX. -/
theorem witness_indistinguishable :
    Indistinguishable (fresh [])
      { fresh [] with frame := Vector.replicate frameCapacity 0xAA, lNw := 9, data := Vector.replicate dataCapacity 7 } ∧
    Indistinguishable (reading 1 .tx []) { reading 1 .tx [] with frame := (reading 1 .tx []).frame.set 5 0xAA } := by
  refine ⟨⟨⟨rfl, rfl, rfl, rfl, rfl, rfl, rfl, rfl, rfl, ?_, rfl, rfl, rfl, rfl, rfl, rfl, rfl⟩, fun h => absurd rfl h,
    fun h => (by cases h), fun h => (by cases h)⟩, ⟨⟨rfl, rfl, rfl, rfl, rfl, rfl, rfl, rfl, rfl, fun _ => rfl, rfl, rfl,
    rfl, rfl, rfl, rfl, rfl⟩, fun _ => ⟨rfl, rfl, rfl, rfl⟩, fun _ => by decide, fun h => (by cases h)⟩⟩
  intro i
  unfold dataWord?
  split
  · next h => simp [fresh, State.reset, State.resetWith]
  · rfl

theorem witness_unscheduled : (reading 1 .tx []).fault = none ∧ (reading 1 .tx []).events = [] ∧
    (reading 1 .tx []).phase ≠ .idle := ⟨rfl, rfl, by decide⟩

theorem witness_hold : Inv params (reading 1 .settle [.settleElapsed 20]) ∧
    (reading 1 .settle [.settleElapsed 20]).phase = .settle ∧
    Next (reading 1 .settle [.settleElapsed 20]) (.settleElapsed 20) [] ∧
    after (step (reading 1 .settle [.settleElapsed 20])) State.phase = some .rx ∧
    after (step (reading 1 .settle [.settleElapsed 19])) State.phase = none :=
  ⟨inv_reading _ _ (by decide), rfl, ⟨rfl, rfl⟩, by decide, by decide⟩

/-- A step of a marked state and of the same state unmarked. -/
theorem witness_mark : after (step (reading 1 .rx [.busReadAnswer none])) statusWord = some 0x030 ∧
    after (step { reading 1 .rx [.busReadAnswer none] with fault := some .unmapped })
      (fun t => (statusWord t, t.fault)) = some (0x030, some .unmapped) ∧
    step { fresh [.busReadAnswer none] with fault := some .unmapped } = .refused .stepNotEnabled :=
  ⟨by decide, by decide, rfl⟩

/-- A block of 48 words, at the edges of its counts. -/
theorem witness_otherBlock : 48 < (49 : BitVec 6).toNat ∧ (48 : BitVec 6).toNat ≤ 48 ∧
    after (run { params with maxWords := 48, minSettleMs := 30 } (.read 0x0100 48) State.reset)
      (fun t => (statusWord t, t.lSettle)) = some (0x003, 30) ∧
    after (run { params with maxWords := 48 } (.read 0x0100 49) State.reset) statusWord = some 0x050 := by decide

/-- A WRITE of 17 words on a block of 17, with its words held and with the last one missing. -/
theorem witness_otherBlock_write : (17 : BitVec 6).toNat ≤ 17 ∧
    DataHeld (loaded (dv1 ++ dv2 ++ [0x0102]) []) (17 : BitVec 6).toNat ∧
    ¬ DataHeld (loaded (dv1 ++ dv2) []) (17 : BitVec 6).toNat :=
  ⟨by decide, fun i hi => by have : i < 17 := hi; interval_cases i <;> decide,
    fun h => absurd (h 16 (by decide)) (by decide)⟩

end Sys2Proof.Tests
end

section
/-! PROOFS. The statements of the scope's family: the register map, the rounding, and the limits of a block. -/

open Sys2Proof Sys2Proof.Machine Sys2Proof.Rule

namespace Sys2Proof.Proofs.Scope

/-! ## The register map -/

/-- An offset that names no register is MISALIGNED or UNMAPPED (R62, R63). -/
theorem regAt_error_cases {p : Params} {off : BitVec 8} {e : FaultReason} (h : regAt p off = .error e) :
    e = .misaligned ∨ e = .unmapped := by
  unfold regAt at h
  split at h
  · cases h; exact .inl rfl
  · split at h
    · cases h
    · split at h
      · cases h
      · split at h <;> cases h
        exact .inr rfl

/-- R63: the map of a legal block has no hole but 0x1C and the offsets past its last DATA word. -/
theorem regAt_names_register {p : Params} (eight : p.channels = 8) {off : BitVec 8} (aligned : off.toNat % 4 = 0)
    (named : ¬ (off.toNat = 0x1C ∨ 0x40 + 4 * p.maxWords ≤ off.toNat)) : ∃ r, regAt p off = .ok r := by
  cases h : regAt p off with
  | ok r => exact ⟨r, rfl⟩
  | error e =>
    obtain rfl | rfl := regAt_error_cases h
    · exact absurd aligned ((regAt_eq_misaligned_iff p off).1 h)
    · exact absurd ((regAt_eq_unmapped_iff eight off).1 h).2 named

/-- R43: the CRC ROM of R121 has an entry for every byte. -/
theorem length_crcTable : crcTable.length = 256 := by
  simp only [crcTable, List.length_append, List.length_cons, List.length_nil]

/-- R6, R7: the block of R6 is one of the legal blocks. -/
theorem params_legal : params.Legal where
  maxWords := by decide
  rom := length_crcTable
  poly := nofun
  floor := by decide
  regWidth := rfl
  wordWidth := rfl
  channels := rfl

/-- Settles O10: `regAt` is the inverse of `offsetOf` on the block's registers, and its only errors are R62's and R63's. -/
theorem registerMapIsOneToOne : Obligations.RegisterMapIsOneToOne := by
  refine ⟨⟨rfl, rfl, rfl, rfl, rfl, rfl, rfl, offsetOf_out_toNat, offsetOf_data_toNat⟩, fun p legal => ?_,
    params_legal, rfl⟩
  refine ⟨fun off r => ?_, fun off aligned => ⟨?_, fun notReserved below => ?_⟩⟩
  · rw [regAt_eq_ok_iff, hasReg_iff legal.channels]
  · rw [regAt_eq_unmapped_iff legal.channels, and_iff_right aligned]
  · exact regAt_names_register legal.channels aligned (by omega)

/-! ## Rounding -/

/-- Below the middle of a unit interval the rule rounds down, whatever the tie rule. -/
theorem rule_roundTies_of_lt (ties : RoundTies) {v : ℚ} (h : v - ⌊v⌋ < 1 / 2) : Rule.roundTies ties v = ⌊v⌋ := by
  have down : ⌊v + 1 / 2⌋ = ⌊v⌋ := Int.floor_eq_iff.2 ⟨by linarith [Int.floor_le v], by linarith⟩
  cases ties
  · rw [Rule.roundTies, if_neg h.ne, down]
  · exact down

/-- From the middle on, the integer below `v + 1/2` is the upper one. -/
theorem floor_add_half_of_ge {v : ℚ} (h : 1 / 2 ≤ v - ⌊v⌋) : ⌊v + 1 / 2⌋ = ⌊v⌋ + 1 := by
  rw [Int.floor_eq_iff]
  push_cast
  exact ⟨by linarith, by linarith [Int.lt_floor_add_one v]⟩

/-- Above the middle the rule rounds up, whatever the tie rule. -/
theorem rule_roundTies_of_gt (ties : RoundTies) {v : ℚ} (h : 1 / 2 < v - ⌊v⌋) :
    Rule.roundTies ties v = ⌊v⌋ + 1 := by
  cases ties
  · rw [Rule.roundTies, if_neg h.ne', floor_add_half_of_ge h.le]
  · exact floor_add_half_of_ge h.le

/-- At the middle the tie rule chooses. -/
theorem rule_roundTies_of_eq (ties : RoundTies) {v : ℚ} (h : v - ⌊v⌋ = 1 / 2) :
    Rule.roundTies ties v = if ties = .even ∧ ⌊v⌋ % 2 = 0 then ⌊v⌋ else ⌊v⌋ + 1 := by
  cases ties
  · simp [Rule.roundTies, h]
  · simpa [Rule.roundTies] using floor_add_half_of_ge h.ge

/-- R10: the rounded value is an integer nearest to `v`. -/
theorem abs_sub_rule_roundTies_le (ties : RoundTies) (v : ℚ) : |v - Rule.roundTies ties v| ≤ 1 / 2 := by
  have below := Int.floor_le v
  have above := Int.lt_floor_add_one v
  rw [abs_le]
  rcases lt_trichotomy (v - ⌊v⌋) (1 / 2) with h | h | h
  · rw [rule_roundTies_of_lt ties h]
    constructor <;> linarith
  · rw [rule_roundTies_of_eq ties h]
    split <;> push_cast <;> constructor <;> linarith
  · rw [rule_roundTies_of_gt ties h]
    push_cast
    constructor <;> linarith

/-- A value half a unit from where it rounds to lies in the middle of its unit interval. -/
theorem tie_of_abs_sub_eq_half {ties : RoundTies} {v : ℚ} (h : |v - Rule.roundTies ties v| = 1 / 2) :
    v - ⌊v⌋ = 1 / 2 := by
  have below := Int.floor_le v
  have above := Int.lt_floor_add_one v
  rcases lt_trichotomy (v - ⌊v⌋) (1 / 2) with lt | eq | gt
  · rw [rule_roundTies_of_lt ties lt, abs_of_nonneg (by linarith)] at h
    exact h
  · exact eq
  · rw [rule_roundTies_of_gt ties gt, abs_of_nonpos (by push_cast; linarith)] at h
    push_cast at h
    linarith

/-- EVEN rounds a tie to an even integer. -/
theorem rule_roundTies_even_of_tie {v : ℚ} (h : v - ⌊v⌋ = 1 / 2) : Rule.roundTies .even v % 2 = 0 := by
  rw [rule_roundTies_of_eq .even h]
  simp only [true_and]
  split <;> omega

/-- A quotient's distance from the integer below it is its remainder over the divisor. -/
theorem div_sub_floor (p : ℤ) {q : Nat} (hq : 0 < q) :
    (p : ℚ) / q - ⌊(p : ℚ) / q⌋ = ((p % (q : ℤ) : ℤ) : ℚ) / q := by
  have hq0 : (q : ℚ) ≠ 0 := by exact_mod_cast hq.ne'
  rw [Rat.floor_intCast_div_natCast, sub_eq_iff_eq_add, div_add' _ _ _ hq0]
  congr 1
  exact_mod_cast (Int.emod_add_ediv_mul p q).symm

/-- The integer rounding is R10's rounding of the quotient. -/
theorem machine_roundTies_eq_rule (ties : RoundTies) (p : ℤ) {q : Nat} (hq : 0 < q) :
    Machine.roundTies ties p q = Rule.roundTies ties ((p : ℚ) / q) := by
  have hq0 : (0 : ℚ) < q := by exact_mod_cast hq
  have frac := div_sub_floor p hq
  have floor : ⌊(p : ℚ) / q⌋ = p / (q : ℤ) := Rat.floor_intCast_div_natCast p q
  rcases lt_trichotomy (2 * (p % (q : ℤ))) q with h | h | h
  · have hr : 2 * ((p % (q : ℤ) : ℤ) : ℚ) < q := by exact_mod_cast h
    rw [rule_roundTies_of_lt ties (by rw [frac, div_lt_iff₀ hq0]; linarith), floor]
    simp only [Machine.roundTies, if_pos h]
  · have hr : 2 * ((p % (q : ℤ) : ℤ) : ℚ) = q := by exact_mod_cast h
    rw [rule_roundTies_of_eq ties (by rw [frac, div_eq_iff hq0.ne']; linarith), floor]
    cases ties <;> simp [Machine.roundTies, h]
  · have hr : (q : ℚ) < 2 * ((p % (q : ℤ) : ℤ) : ℚ) := by exact_mod_cast h
    rw [rule_roundTies_of_gt ties (by rw [frac, lt_div_iff₀ hq0]; linarith), floor]
    simp only [Machine.roundTies, if_neg h.not_gt, if_pos h]

/-- The integer `RoundToNearest` is R10's, of the quotient and a whole step. -/
theorem machine_roundToNearest_eq_rule (ties : RoundTies) (p : ℤ) {q n : Nat} (hq : 0 < q) (hn : 0 < n) :
    ((Machine.roundToNearest ties p q n : ℤ) : ℚ) = Rule.roundToNearest ties ((p : ℚ) / q) n := by
  rw [Machine.roundToNearest, Rule.roundToNearest, machine_roundTies_eq_rule ties p (Nat.mul_pos hq hn)]
  push_cast
  rw [div_div]

/-- Settles O23: the integer rounding is R10's on the quotient, and that one is nearest with the tie rule. -/
theorem roundingIsNearestWithTheTieRule : Obligations.RoundingIsNearestWithTheTieRule := by
  intro ties p q hq v r
  have hr : r = Rule.roundTies ties v := machine_roundTies_eq_rule ties p hq
  rw [hr]
  refine ⟨abs_sub_rule_roundTies_le ties v, fun half => ?_, rfl,
    fun n hn => machine_roundToNearest_eq_rule ties p hq hn⟩
  cases ties with
  | even => exact rule_roundTies_even_of_tie (tie_of_abs_sub_eq_half half)
  | halfUp => rfl

/-! ## A block's own limits -/

/-- R94: a count of 0 or above the block's MAX_WORDS is one it does not run. -/
theorem nwLegal_eq_false {p : Params} {nw : BitVec 6} (bad : nw.toNat = 0 ∨ p.maxWords < nw.toNat) :
    nwLegal p nw = false := by
  rw [← Bool.not_eq_true, nwLegal_iff]
  omega

/-- R100: a WRITE of a count the block does not run completes with LENGTH_ERROR. -/
theorem runWrite_of_not_nwLegal {p : Params} {nw : BitVec 6} (bad : nwLegal p nw = false) (opc : Word) (s : State) :
    runWrite p opc nw s = .next (complete .lengthError s) := by
  simp [runWrite, bad]

/-- R100: a READ of a count the block does not run completes with LENGTH_ERROR. -/
theorem runRead_of_not_nwLegal {p : Params} {nw : BitVec 6} (bad : nwLegal p nw = false) (opc : Word) (s : State) :
    runRead p opc nw s = .next (complete .lengthError s) := by
  simp [runRead, bad]

/-- The frame build of a WRITE succeeds exactly when its words hold values (R151). -/
theorem buildWords_range_ok_iff (p : Params) (s : State) (n : Nat) (f : Vector Byte frameCapacity) :
    (buildWords p s (List.range n) f).2 = true ↔ DataHeld s n := by
  simp [buildWords_ok, DataHeld]

/-- Loading the latches writes no DATA word. -/
theorem dataHeld_loadLatches (p : Params) (op : BitVec 4) (opc : Word) (nw : BitVec 6) (s : State) (n : Nat) :
    DataHeld (loadLatches p op opc nw s) n ↔ DataHeld s n := by
  simp only [DataHeld, dataWord?_congr (loadLatches_data ..) (loadLatches_dataValid ..)]

/-- R141, R160: a READ of a legal count latches it with the block's own floor and waits for the transport. -/
theorem runRead_of_nwLegal {p : Params} (fits : p.minSettleMs < 2 ^ 16) {nw : BitVec 6} (good : nwLegal p nw = true)
    (opc : Word) (s : State) :
    ∃ t, runRead p opc nw s = .next t ∧ t.phase = .tx ∧ t.code = s.code ∧ t.lNw = nw ∧
      t.lSettle.toNat = max s.settle.toNat p.minSettleMs := by
  refine ⟨startTx 2 (loadLatches p opRead opc nw s), by simp [runRead, good], rfl, rfl, rfl, ?_⟩
  exact effectiveSettle_toNat fits s.settle

/-- R141, R150, R151: a WRITE of a legal count latches it with the block's own floor, and waits for the transport or
marks the word that holds no value. -/
theorem runWrite_of_nwLegal {p : Params} (fits : p.minSettleMs < 2 ^ 16) {nw : BitVec 6} (good : nwLegal p nw = true)
    (opc : Word) (s : State) :
    ∃ t, runWrite p opc nw s = .next t ∧ t.code = s.code ∧ t.lNw = nw ∧
      t.lSettle.toNat = max s.settle.toNat p.minSettleMs ∧
      (DataHeld s nw.toNat → t.phase = .tx ∧ t.fault = s.fault) ∧
      (¬ DataHeld s nw.toNat → t.phase = s.phase ∧ t.fault = some .unwrittenData) := by
  obtain ⟨t, ht⟩ : ∃ t, runWrite p opc nw s = .next t := run_answers_next p (.write opc nw) s
  have built := (buildWords_range_ok_iff p (loadLatches p opWrite opc nw s) nw.toNat
    (loadLatches p opWrite opc nw s).frame).trans (dataHeld_loadLatches ..)
  have floor := effectiveSettle_toNat fits s.settle
  refine ⟨t, ht, ?_⟩
  obtain ⟨bad, -⟩ | ⟨-, unbuilt, rfl⟩ | ⟨-, done, rfl⟩ := runWrite_cases opc nw s t ht
  · rw [good] at bad
    cases bad
  · have unheld : ¬ DataHeld s nw.toNat := fun held =>
      Bool.false_ne_true (unbuilt.symm.trans (built.2 held))
    exact ⟨rfl, rfl, floor, fun held => absurd held unheld, fun _ => ⟨rfl, rfl⟩⟩
  · exact ⟨rfl, rfl, floor, fun _ => ⟨rfl, rfl⟩, fun unheld => absurd (built.1 done) unheld⟩

/-- Settles O53: a count the block does not run, and one it runs, for a READ and for a WRITE. -/
theorem everyBlockKeepsItsOwnLimits : Obligations.EveryBlockKeepsItsOwnLimits := by
  refine ⟨run_params, fun p legal opc nw s => ⟨fun bad => ?_, fun one max => ?_⟩⟩
  · have bad := nwLegal_eq_false bad
    exact ⟨runWrite_of_not_nwLegal bad opc s, runRead_of_not_nwLegal bad opc s⟩
  · have good := (nwLegal_iff p nw).2 ⟨one, max⟩
    exact ⟨runRead_of_nwLegal legal.floor good opc s, runWrite_of_nwLegal legal.floor good opc s⟩

end Sys2Proof.Proofs.Scope
end

section
/-! PROOFS. The statements of the state family: the registers as the host sees them, the invariant, what a command and a
step leave alone, and what no one can tell apart. -/

open Sys2Proof Sys2Proof.Machine Sys2Proof.Rule
open Sys2Proof.Proofs.Scope (params_legal buildWords_range_ok_iff dataHeld_loadLatches)

namespace Sys2Proof.Proofs.StateRules

/-! ## What a command leaves behind -/

/-- A WRITE's latches and the frame its build has made (R141, R151). -/
def builtWrite (p : Params) (opc : Word) (nw : BitVec 6) (s : State) : State :=
  let s1 := loadLatches p opWrite opc nw s
  { s1 with frame := (buildWords p s1 (List.range nw.toNat) s1.frame).1 }

/-- The state each command leaves, by the rule of its op (R100). -/
inductive Effect (p : Params) (s : State) : Instr → State → Prop where
  | crc8 (msb lsb : Byte) : Effect p s (.crc8 msb lsb) (complete .ok (setResultByte (crc8 p msb lsb) s))
  | crcchk (msb lsb crc : Byte) : Effect p s (.crcchk msb lsb crc)
      (complete .ok (setMatch (Machine.crc8 p msb lsb == crc) (setResultByte (Machine.crc8 p msb lsb) s)))
  | sent (raw : Word) : Effect p s (.sent raw) (complete .ok (setUnknown (isSentinel raw) s))
  | scale (ch : Channel) (raw : Word) : Effect p s (.scale ch raw) (convert p ch raw .raw s)
  | roundMetric (ch : Channel) (raw : Word) : Effect p s (.roundMetric ch raw) (convert p ch raw .metric s)
  | roundImperial (ch : Channel) (raw : Word) : Effect p s (.roundImperial ch raw) (convert p ch raw .imperial s)
  | decode (m : RMode) (valid : readingValid p s = true) :
      Effect p s (decodeOf m) (complete .ok (decodeReading p m s))
  | decodeUnheld (m : RMode) (invalid : readingValid p s = false) :
      Effect p s (decodeOf m) (raiseFault .unwrittenData s)
  | exec (opc : Word) : Effect p s (.exec opc) (startTx 2 (loadLatches p opExec opc 0 s))
  | read (opc : Word) (nw : BitVec 6) (legal : nwLegal p nw = true) :
      Effect p s (.read opc nw) (startTx 2 (loadLatches p opRead opc nw s))
  | write (opc : Word) (nw : BitVec 6) (legal : nwLegal p nw = true) (held : DataHeld s nw.toNat) :
      Effect p s (.write opc nw) (startTx (2 + p.wireBytes * nw.toNat) (builtWrite p opc nw s))
  | writeUnheld (opc : Word) (nw : BitVec 6) (legal : nwLegal p nw = true) (unheld : ¬ DataHeld s nw.toNat) :
      Effect p s (.write opc nw) (raiseFault .unwrittenData (builtWrite p opc nw s))
  | badRead (opc : Word) (nw : BitVec 6) (illegal : nwLegal p nw = false) :
      Effect p s (.read opc nw) (complete .lengthError s)
  | badWrite (opc : Word) (nw : BitVec 6) (illegal : nwLegal p nw = false) :
      Effect p s (.write opc nw) (complete .lengthError s)

theorem runDecode_effect {p : Params} (m : RMode) {s t : State} (h : runDecode p m s = .next t) :
    Effect p s (decodeOf m) t := by
  obtain ⟨invalid, rfl⟩ | ⟨valid, rfl⟩ := runDecode_cases m s t h
  · exact .decodeUnheld m invalid
  · exact .decode m valid

theorem runWrite_effect {p : Params} (opc : Word) (nw : BitVec 6) {s t : State} (h : runWrite p opc nw s = .next t) :
    Effect p s (.write opc nw) t := by
  have held := (buildWords_range_ok_iff p (loadLatches p opWrite opc nw s) nw.toNat
    (loadLatches p opWrite opc nw s).frame).trans (dataHeld_loadLatches ..)
  obtain ⟨bad, rfl⟩ | ⟨legal, unbuilt, rfl⟩ | ⟨legal, built, rfl⟩ := runWrite_cases opc nw s t h
  · exact .badWrite opc nw bad
  · exact .writeUnheld opc nw legal fun all => Bool.false_ne_true (unbuilt.symm.trans (held.2 all))
  · exact .write opc nw legal (held.1 built)

/-- A command leaves nothing but its effect. -/
theorem run_effect {p : Params} {i : Instr} {s t : State} (h : run p i s = .next t) : Effect p s i t := by
  cases i with
  | write opc nw => exact runWrite_effect opc nw h
  | read opc nw =>
    obtain ⟨bad, rfl⟩ | ⟨legal, rfl⟩ := runRead_cases opc nw s t h
    · exact .badRead opc nw bad
    · exact .read opc nw legal
  | decodeRaw => exact runDecode_effect .raw h
  | decodeMetric => exact runDecode_effect .metric h
  | decodeImperial => exact runDecode_effect .imperial h
  | crc8 msb lsb => cases h; exact .crc8 msb lsb
  | crcchk msb lsb crc => cases h; exact .crcchk msb lsb crc
  | exec opc => cases h; exact .exec opc
  | sent raw => cases h; exact .sent raw
  | scale ch raw => cases h; exact .scale ch raw
  | roundMetric ch raw => cases h; exact .roundMetric ch raw
  | roundImperial ch raw => cases h; exact .roundImperial ch raw

/-- A command's effect is what running it leaves. -/
theorem run_of_effect {p : Params} {i : Instr} {s t : State} (h : Effect p s i t) : run p i s = .next t := by
  have built := fun opc (nw : BitVec 6) => (buildWords_range_ok_iff p (loadLatches p opWrite opc nw s) nw.toNat
    (loadLatches p opWrite opc nw s).frame).trans (dataHeld_loadLatches ..)
  cases h with
  | crc8 | crcchk | sent | scale | roundMetric | roundImperial | exec => rfl
  | decode m valid => cases m <;> exact if_pos valid
  | decodeUnheld m invalid => cases m <;> exact if_neg (Bool.eq_false_iff.1 invalid)
  | read opc nw legal => exact if_pos legal
  | write opc nw legal held => exact (if_pos legal).trans (if_pos ((built opc nw).2 held))
  | writeUnheld opc nw legal unheld => exact (if_pos legal).trans (if_neg (mt (built opc nw).1 unheld))
  | badRead opc nw illegal | badWrite opc nw illegal => exact if_neg (Bool.eq_false_iff.1 illegal)

/-! ## The frame that waits to be sent -/

/-- The frame to send is the bytes just placed, where it is as long as they are. -/
theorem txFrame_startTx (bs : List Byte) (f : Vector Byte frameCapacity) (s : State)
    (fits : bs.length ≤ frameCapacity) :
    txFrame (startTx bs.length { s with frame := putFrame 0 bs f }) = bs := by
  have small : bs.length % 2 ^ 8 = bs.length := Nat.mod_eq_of_lt (lt_of_le_of_lt fits (by decide))
  simp only [txFrame, startTx_frame, startTx_lTxLen, BitVec.toNat_ofNat, small]
  exact putFrame_take bs f fits

/-- Words that hold values are the first words of DATA. -/
theorem map_wordAt_range {s : State} {n : Nat} (held : DataHeld s n) :
    (List.range' 0 n).map (wordAt s) = s.data.toList.take n := by
  have word : ∀ i, i < n → ∃ h : i < dataCapacity, wordAt s i = s.data[i] := by
    intro i hi
    obtain ⟨w, hw⟩ := Option.isSome_iff_exists.1 (held i hi)
    obtain ⟨h, -, rfl⟩ := (dataWord?_eq_some_iff s i w).1 hw
    exact ⟨h, by rw [wordAt, hw, Option.getD_some]⟩
  have room : n ≤ dataCapacity := by
    by_contra more
    obtain ⟨h, -⟩ := word dataCapacity (by omega)
    omega
  apply List.ext_getElem
  · simp [room]
  · intro i h1 h2
    have hi : i < n := by simpa using h1
    obtain ⟨_, hw⟩ := word i hi
    simpa using hw

/-- The bytes on the wire of `n` words of DATA. -/
theorem length_wireData (p : Params) (s : State) {n : Nat} (room : n ≤ dataCapacity) :
    (wireData p s n).length = 3 * n := by
  have three : (fun w => (wireWord p w).length) = fun _ => 3 := rfl
  simp [wireData, List.length_flatten, Function.comp_def, three, room, Nat.mul_comm]

/-- The frame a WRITE builds is its opcode and its words as the wire carries them (R71, R151). -/
theorem builtWrite_frame {p : Params} (three : p.wireBytes = 3) (opc : Word) {nw : BitVec 6} {s : State}
    (held : DataHeld s nw.toNat) :
    (builtWrite p opc nw s).frame = putFrame 0 (opcodeBytes opc ++ wireData p s nw.toNat) s.frame := by
  have build := buildWords_frame three s nw.toNat 0 (putFrame 0 (opcodeBytes opc) s.frame)
    fun j _ hj => held j (by omega)
  have words := congrArg (List.map (wireWord p)) (map_wordAt_range held)
  rw [List.map_map] at words
  have same : ∀ i, dataWord? (loadLatches p opWrite opc nw s) i = dataWord? s i := dataWord?_congr rfl rfl
  rw [putFrame_append, wireData, ← words, builtWrite]
  simp only [buildWords_congr _ _ same, List.range_eq_range', loadLatches_frame]
  exact build

/-- A WRITE of a legal count waits with the frame of R71. -/
theorem txFrame_write {p : Params} (legal : p.Legal) (opc : Word) {nw : BitVec 6} (count : nwLegal p nw = true)
    {s : State} (held : DataHeld s nw.toNat) :
    txFrame (startTx (2 + p.wireBytes * nw.toNat) (builtWrite p opc nw s)) =
      opcodeBytes opc ++ wireData p s nw.toNat := by
  have three := wireBytes_of_sixteen legal.wordWidth
  obtain ⟨-, max⟩ := (nwLegal_iff p nw).1 count
  have room : nw.toNat ≤ dataCapacity := max.trans legal.maxWords.2
  have len : (opcodeBytes opc ++ wireData p s nw.toNat).length = 2 + p.wireBytes * nw.toNat := by
    rw [List.length_append, length_wireData p s room, three]; rfl
  have frame := txFrame_startTx (opcodeBytes opc ++ wireData p s nw.toNat) s.frame (builtWrite p opc nw s)
    (by rw [len, three]; unfold frameCapacity; omega)
  rw [len, ← builtWrite_frame three opc held] at frame
  exact frame

/-- An EXEC or READ waits with its opcode (R145, R160). -/
theorem txFrame_opcode (p : Params) (op : BitVec 4) (opc : Word) (nw : BitVec 6) (s : State) :
    txFrame (startTx 2 (loadLatches p op opc nw s)) = opcodeBytes opc :=
  txFrame_startTx (opcodeBytes opc) s.frame (loadLatches p op opc nw s) (by decide : 2 ≤ frameCapacity)

/-! ## Numerators (42_measure R195) -/

/-- The value of a word that is no sentinel, by the channel's signedness. -/
theorem channelValue_bounds (ch : Channel) {w : Word} (number : isSentinel w = false) :
    if channelSigned ch then -32768 ≤ channelValue ch w ∧ channelValue ch w ≤ 32767
    else 0 ≤ channelValue ch w ∧ channelValue ch w ≤ 65534 := by
  have lt := w.isLt
  unfold channelValue
  split
  · rw [s16_eq_toInt]
    have low := BitVec.le_toInt w
    have high := BitVec.toInt_lt (x := w)
    norm_num at low high
    omega
  · have notOnes : w.toNat ≠ 65535 := by
      intro ones
      obtain rfl : w = 0xFFFF := BitVec.eq_of_toNat_eq ones
      exact absurd number (by decide)
    unfold u16
    omega

/-- The numerators that RESULT and OUT can hold (R195). -/
def NumeratorBounds (n : Int) : Prop := -32768 ≤ n ∧ n ≤ 65534

/-- Rounding a value of a channel to a step keeps it in R195's bounds. -/
theorem roundToNearest_bounds (ties : RoundTies) {x : Int} (low : -32768 ≤ x) (high : x ≤ 65534) (s n : Nat)
    (step : (s, n) = (10, 1) ∨ (s, n) = (10, 5) ∨ (s, n) = (10, 10) ∨ (s, n) = (10, 25) ∨ (s, n) = (100, 5)) :
    NumeratorBounds (Machine.roundToNearest ties x s n) := by
  have near := roundTies_bounds ties x
  unfold NumeratorBounds Machine.roundToNearest
  simp only [Prod.mk.injEq] at step
  obtain ⟨rfl, rfl⟩ | ⟨rfl, rfl⟩ | ⟨rfl, rfl⟩ | ⟨rfl, rfl⟩ | ⟨rfl, rfl⟩ := step
  · have := near (10 * 1) (-3277) 6554 (by omega) (by omega) (by omega)
    omega
  · have := near (10 * 5) (-656) 1311 (by omega) (by omega) (by omega)
    omega
  · have := near (10 * 10) (-328) 656 (by omega) (by omega) (by omega)
    omega
  · have := near (10 * 25) (-132) 263 (by omega) (by omega) (by omega)
    omega
  · have := near (100 * 5) (-66) 132 (by omega) (by omega) (by omega)
    omega

theorem displayMetric_bounds (ties : RoundTies) (ch : Channel) {x : Int} (low : -32768 ≤ x) (high : x ≤ 65534) :
    NumeratorBounds (displayMetric ties ch x) := by
  have near := roundToNearest_bounds ties low high
  cases ch with
  | pm1 | pm2p5 => unfold displayMetric; simp only; split <;> exact near _ _ (by decide)
  | pm4 | pm10 | rh | voc | nox => exact near _ _ (by decide)
  | t =>
    have := roundTies_bounds ties x 100 (-328) 656 (by omega) (by omega) (by omega)
    change NumeratorBounds (Machine.roundTies ties x 100)
    unfold NumeratorBounds
    omega

theorem displayImperial_bounds (ties : RoundTies) (ch : Channel) {x : Int} (low : -32768 ≤ x) (high : x ≤ 65534) :
    NumeratorBounds (displayImperial ties ch x) := by
  have metric := displayMetric_bounds ties ch low high
  cases ch with
  | t =>
    have := roundTies_bounds ties (9 * x + 32000) 1000 (-263) 622 (by omega) (by omega) (by omega)
    change NumeratorBounds (Machine.roundTies ties (9 * x + 32000) 1000)
    unfold NumeratorBounds
    omega
  | pm1 | pm2p5 | pm4 | pm10 | rh | voc | nox => exact metric

/-- Every numerator that `Chan` delivers is one of R195. -/
theorem chan_bounds (ties : RoundTies) (ch : Channel) (w : Word) (m : RMode) :
    NumeratorBounds (chan ties ch w m).2 := by
  unfold chan
  split
  · exact ⟨by decide, by decide⟩
  · next number =>
    have value := channelValue_bounds ch (Bool.eq_false_iff.2 number)
    have bounds : -32768 ≤ channelValue ch w ∧ channelValue ch w ≤ 65534 := by split at value <;> omega
    obtain ⟨low, high⟩ := bounds
    cases m with
    | raw => exact ⟨low, high⟩
    | metric => exact displayMetric_bounds ties ch low high
    | imperial => exact displayImperial_bounds ties ch low high

/-- A register takes a numerator of R195 as it is. -/
theorem inNumeratorRange_ofInt {n : Int} (h : NumeratorBounds n) : InNumeratorRange (BitVec.ofInt 32 n) := by
  obtain ⟨low, high⟩ := h
  have same : (BitVec.ofInt 32 n).toInt = n := by
    rw [BitVec.toInt_ofInt]
    exact Int.bmod_eq_of_le (by norm_num; omega) (by norm_num; omega)
  unfold InNumeratorRange
  rw [same]
  exact ⟨low, high⟩

/-- A register takes a byte as a number of R195. -/
theorem inNumeratorRange_byte (b : Byte) : InNumeratorRange (b.setWidth 32) := by
  have lt := b.isLt
  have low : (b.setWidth 32).toNat = b.toNat := BitVec.toNat_setWidth_of_le (by decide)
  unfold InNumeratorRange
  rw [BitVec.toInt_eq_toNat_of_lt (by omega), low]
  omega

/-- DEN is one of its values on every channel and in every mode (R32, R182). -/
theorem denLegal_denOf (ch : Channel) (m : RMode) : DenLegal (BitVec.ofNat 32 (denOf ch m)) := by
  have listed : ∀ n ∈ [1, 2, 10, 100, 200], DenLegal (BitVec.ofNat 32 n) := by unfold DenLegal; decide
  exact listed _ (by cases m <;> cases ch <;> decide)

/-! ## STATUS -/

theorem phaseBits_le (ph : Phase) : (phaseBits ph).toNat ≤ 4 := by cases ph <;> decide

theorem codeBits_le (c : Code) : (codeBits c).toNat ≤ 5 := by cases c <;> decide

/-- A bit of a register whose number is known. -/
theorem getLsbD_eq_of_div (c : Reg) (k : Nat) (b : Bool) (h : c.toNat / 2 ^ k % 2 = b.toNat) : c.getLsbD k = b := by
  rw [← BitVec.testBit_toNat, Nat.testBit_eq_decide_div_mod_eq, h]
  cases b <;> rfl

section
variable (s : State)

/-- STATUS as a number: its fields in R29's places, each within its width. -/
theorem statusWord_toNat : (statusWord s).toNat =
    s.unknown.toNat * 2 ^ 9 + s.matchBit.toNat * 2 ^ 8 + (codeBits s.code).toNat * 2 ^ 4 +
      (phaseBits s.phase).toNat * 2 + (busy s).toNat ∧
    s.unknown.toNat < 2 ∧ s.matchBit.toNat < 2 ∧ (codeBits s.code).toNat ≤ 5 ∧ (phaseBits s.phase).toNat ≤ 4 ∧
    (busy s).toNat < 2 := by
  refine ⟨?_, Bool.toNat_lt _, Bool.toNat_lt _, codeBits_le _, phaseBits_le _, Bool.toNat_lt _⟩
  simp only [statusWord, toNat_append_eq, BitVec.toNat_ofBool, BitVec.toNat_ofNat]
  omega

theorem statusWord_busy : (statusWord s).getLsbD 0 = busy s := by
  have number := statusWord_toNat s
  exact getLsbD_eq_of_div _ _ _ (by omega)

theorem statusWord_phase : (statusWord s).extractLsb' 1 3 = phaseBits s.phase := by
  have number := statusWord_toNat s
  exact field_eq _ _ _ (by omega)

theorem statusWord_code : (statusWord s).extractLsb' 4 4 = codeBits s.code := by
  have number := statusWord_toNat s
  exact field_eq _ _ _ (by omega)

theorem statusWord_match : (statusWord s).getLsbD 8 = s.matchBit := by
  have number := statusWord_toNat s
  exact getLsbD_eq_of_div _ _ _ (by omega)

theorem statusWord_unknown : (statusWord s).getLsbD 9 = s.unknown := by
  have number := statusWord_toNat s
  exact getLsbD_eq_of_div _ _ _ (by omega)

/-- STATUS has ten named bits. -/
theorem statusWord_lt : (statusWord s).toNat < 2 ^ 10 := by
  have number := statusWord_toNat s
  omega

end

/-- The bits of a register above a value that fits below them are 0. -/
theorem field_eq_zero_of_lt (c : Reg) (lo w : Nat) (h : c.toNat < 2 ^ lo) : c.extractLsb' lo w = 0 :=
  field_eq c lo 0 (by rw [Nat.div_eq_of_lt h, Nat.zero_mod]; rfl)

/-- Settles O14: STATUS field by field, from its number. -/
theorem statusFieldsAreWhereR29Says : Obligations.StatusFieldsAreWhereR29Says := by
  intro s
  refine ⟨statusWord s, rfl, statusWord_busy s, ?_, ?_, statusWord_match s, statusWord_unknown s,
    field_eq_zero_of_lt _ _ _ (statusWord_lt s)⟩
  · rw [statusWord_phase]
    cases s.phase <;> rfl
  · rw [statusWord_code]
    cases s.code <;> rfl

/-! ## The invariant -/

/-- Every state's STATUS and UNKMASK read as R46 says. -/
theorem readsLegal (s : State) : ReadsLegal s where
  busyBit := statusWord_busy s
  phaseField := by rw [statusWord_phase]; exact phaseBits_le s.phase
  codeField := by rw [statusWord_code]; exact codeBits_le s.code
  maskField := by
    intro v hv
    cases hv
    have lt := s.unkMask.isLt
    exact field_eq_zero_of_lt _ _ _ (by rw [BitVec.toNat_setWidth_of_le (by decide)]; exact lt)

/-- The part of the invariant that speaks of numbers: RESULT, DEN, OUT, and the words that can hold values. -/
structure NumbersLegal (p : Params) (s : State) : Prop where
  den : DenLegal s.den
  result : InNumeratorRange s.result
  out : ∀ i : Fin channelCapacity, InNumeratorRange (s.out.get i)
  words : ∀ i, p.maxWords ≤ i → dataWord? s i = none

/-- The part of the invariant that speaks of the command in flight. -/
structure FlightLegal (p : Params) (s : State) : Prop where
  latches : s.phase ≠ .idle → LatchesLegal p s
  frame : s.phase = .tx → txFrame s = expectedFrame p s ∧ s.lTxLen.toNat ≤ p.frameBytes
  rx : s.phase = .rx → s.lOp = opRead
  post : s.phase = .post → 0 < p.postReadSettleMs

/-- The invariant is these two parts. -/
theorem inv_iff {p : Params} {s : State} : Inv p s ↔ NumbersLegal p s ∧ FlightLegal p s :=
  ⟨fun h => ⟨⟨h.den, h.result, h.out, h.words⟩, ⟨h.latches, h.frame, h.rx, h.post⟩⟩,
    fun ⟨n, f⟩ => ⟨readsLegal s, n.den, n.result, n.out, n.words, f.latches, f.frame, f.rx, f.post⟩⟩

/-- No command is in flight in an idle block. -/
theorem FlightLegal.of_idle {p : Params} {s : State} (idle : s.phase = .idle) : FlightLegal p s := by
  constructor <;> simp [idle]

/-- Latches are legal whatever the rest of the state. -/
theorem latchesLegal_congr {p : Params} {s t : State} (h : LatchesLegal p s) (op : t.lOp = s.lOp) (nw : t.lNw = s.lNw)
    (settle : t.lSettle = s.lSettle) : LatchesLegal p t :=
  ⟨by rw [op]; exact h.op, by rw [op, nw]; exact h.words, by rw [settle]; exact h.settle⟩

/-- The mark, the schedule, the records and the draws are no part of the invariant. -/
theorem inv_withRecords {p : Params} {s : State} (h : Inv p s) (f : Option FaultReason) (es : List Event)
    (bus : List BusTxn) (seen : List Reg) (n : Nat) :
    Inv p { s with fault := f, events := es, bus := bus, observed := seen, draws := n } where
  reads := readsLegal _
  den := h.den
  result := h.result
  out := h.out
  words := h.words
  latches := fun busy => latchesLegal_congr (h.latches busy) rfl rfl rfl
  frame := h.frame
  rx := h.rx
  post := h.post

/-- DECODE puts numerators in OUT (R205), or leaves it where the block has no such channel. -/
theorem decodeReading_out_inRange (p : Params) (m : RMode) {s : State}
    (out : ∀ i : Fin channelCapacity, InNumeratorRange (s.out.get i)) (i : Fin channelCapacity) :
    InNumeratorRange ((decodeReading p m s).out.get i) := by
  have onLane : ∀ ch, InNumeratorRange (laneOut p s m ch) := by
    intro ch
    unfold laneOut
    split
    · exact inNumeratorRange_ofInt (chan_bounds ..)
    · exact out _
  obtain ⟨ch, rfl⟩ : ∃ ch, i = laneOf ch :=
    ⟨channelOf (BitVec.ofNat 3 i.val), by revert i; decide⟩
  rw [laneOf, decodeReading_out_get]
  exact onLane ch

/-- Every command's effect leaves legal numbers. -/
theorem Effect.numbersLegal {p : Params} {i : Instr} {s t : State} (h : Effect p s i t) (n : NumbersLegal p s) :
    NumbersLegal p t := by
  have quantity : ∀ ch raw m, NumbersLegal p (convert p ch raw m s) := fun ch raw m =>
    ⟨denLegal_denOf ch m, inNumeratorRange_ofInt (chan_bounds ..), n.out, n.words⟩
  cases h with
  | crc8 | crcchk => exact ⟨n.den, inNumeratorRange_byte _, n.out, n.words⟩
  | scale | roundMetric | roundImperial => exact quantity ..
  | decode m => exact ⟨n.den, n.result, decodeReading_out_inRange p m n.out, n.words⟩
  | sent | decodeUnheld | exec | read | write | writeUnheld | badRead | badWrite =>
    exact ⟨n.den, n.result, n.out, n.words⟩

/-- An accept step loads legal latches (R141), whatever frame it builds. -/
theorem latchesLegal_startTx {p : Params} (legal : p.Legal) {op : BitVec 4} {nw : BitVec 6}
    (known : op = opExec ∨ op = opWrite ∨ op = opRead) (words : if op = opExec then nw = 0 else nwLegal p nw = true)
    (opc : Word) (s : State) (f : Vector Byte frameCapacity) (len : Nat) :
    LatchesLegal p (startTx len { loadLatches p op opc nw s with frame := f }) where
  op := known
  words := words
  settle := by simp only [startTx_lSettle, loadLatches_lSettle, effectiveSettle_toNat legal.floor, le_max_right]

/-- Every command's effect on an idle block leaves a legal flight. -/
theorem Effect.flightLegal {p : Params} (legal : p.Legal) {i : Instr} {s t : State} (h : Effect p s i t)
    (idle : s.phase = .idle) : FlightLegal p t := by
  have room : 2 ≤ p.frameBytes := Nat.le_add_right ..
  cases h with
  | exec opc =>
    have latches := latchesLegal_startTx legal (op := opExec) (nw := 0) (.inl rfl) rfl opc s
    exact ⟨fun _ => latches .., fun _ => ⟨txFrame_opcode .., room⟩, nofun, nofun⟩
  | read opc nw count =>
    have latches := latchesLegal_startTx legal (op := opRead) (nw := nw) (.inr (.inr rfl)) count opc s
    exact ⟨fun _ => latches .., fun _ => ⟨txFrame_opcode .., room⟩, nofun, nofun⟩
  | write opc nw count held =>
    have latches := latchesLegal_startTx legal (op := opWrite) (nw := nw) (.inr (.inl rfl)) count opc s
    have max := ((nwLegal_iff p nw).1 count).2
    have len : (BitVec.ofNat 8 (2 + p.wireBytes * nw.toNat)).toNat ≤ p.frameBytes := by
      rw [BitVec.toNat_ofNat, Params.frameBytes]
      exact (Nat.mod_le ..).trans (by gcongr)
    exact ⟨fun _ => latches .., fun _ => ⟨txFrame_write legal opc count held, len⟩, nofun, nofun⟩
  | decodeUnheld | writeUnheld => exact .of_idle idle
  | crc8 | crcchk | sent | scale | roundMetric | roundImperial | decode | badRead | badWrite => exact .of_idle rfl

/-- A command on an idle block keeps the invariant. -/
theorem run_keeps_inv {p : Params} (legal : p.Legal) {i : Instr} {s t : State} (h : run p i s = .next t)
    (idle : s.phase = .idle) (n : NumbersLegal p s) : Inv p t :=
  inv_iff.2 ⟨(run_effect h).numbersLegal n, (run_effect h).flightLegal legal idle⟩

/-- A host write of a register of the block leaves legal numbers. -/
theorem writeReg_numbersLegal {p : Params} {reg : HostReg} (mine : HasReg p reg) (v : Reg) {s : State}
    (n : NumbersLegal p s) : NumbersLegal p (writeReg p reg v s) := by
  cases reg with
  | data i =>
    refine ⟨n.den, n.result, n.out, fun j past => ?_⟩
    have other : j ≠ i.val := (lt_of_lt_of_le mine past).ne'
    rw [writeReg, dataWord?_writeData, if_neg fun ⟨same, _⟩ => other same]
    exact n.words j past
  | cmd | status | result | den | settle | busAddr | unkMask | out => exact ⟨n.den, n.result, n.out, n.words⟩

theorem writeReg_phase (p : Params) (reg : HostReg) (v : Reg) (s : State) : (writeReg p reg v s).phase = s.phase := by
  cases reg <;> rfl

/-- A response of `n` words commits no word past them. -/
theorem dataWord?_commit_of_ge {r : List Byte} {n : Nat} (len : r.length = 3 * n) (s : State) {i : Nat}
    (past : n ≤ i) :
    dataWord? (commit r s) i = dataWord? s i := by
  have words : (frameWords r).length = n := by rw [frameWords, List.length_map, triples_length n r len]
  rw [commit, dataWord?_writeDataFrom, if_neg (by omega)]

/-- The words after the Rx step: those committed where the response is valid. -/
theorem dataWord?_receive (p : Params) (r : List Byte) (s : State) (i : Nat) :
    dataWord? (receive p r s) i = if validate p r = .ok then dataWord? (commit r s) i else dataWord? s i := by
  by_cases valid : validate p r = .ok
  · rw [if_pos valid]
    exact dataWord?_congr (by simp [receive_eq, valid]) (by simp [receive_eq, valid]) i
  · rw [if_neg valid]
    exact dataWord?_congr (by simp [receive_eq, valid]) (by simp [receive_eq, valid]) i

/-- The Rx step with the bytes of a READ in flight keeps the invariant. -/
theorem receive_keeps_inv {p : Params} (legal : p.Legal) {s : State} (h : Inv p s) (rx : s.phase = .rx) {r : List Byte}
    (len : r.length = rxCount p s) : Inv p (receive p r s) := by
  have latches := h.latches (by rw [rx]; nofun)
  have count : nwLegal p s.lNw = true := by
    have words := latches.words
    rwa [h.rx rx, if_neg (by decide)] at words
  have max := ((nwLegal_iff p s.lNw).1 count).2
  rw [rxCount, wireBytes_of_sixteen legal.wordWidth] at len
  refine inv_iff.2 ⟨⟨?_, ?_, ?_, fun i past => ?_⟩, ?_⟩
  · rw [receive_eq]; exact h.den
  · rw [receive_eq]; exact h.result
  · rw [receive_eq]; exact h.out
  · rw [dataWord?_receive, dataWord?_commit_of_ge len s (max.trans past), ite_self]
    exact h.words i past
  · by_cases hold : 0 < p.postReadSettleMs
    · have post : (receive p r s).phase = .post := by rw [receive_eq]; exact if_pos hold
      exact ⟨fun _ => by rw [receive_eq]; exact latchesLegal_congr latches rfl rfl rfl,
        fun tx => (nomatch post.symm.trans tx), fun rx => (nomatch post.symm.trans rx), fun _ => hold⟩
    · exact .of_idle (by rw [receive_eq]; exact if_neg hold)

/-- Every move of a legal block keeps the invariant. -/
theorem move_keeps_inv {p : Params} (legal : p.Legal) {s t : State} (move : Move p s t) (h : Inv p s) : Inv p t := by
  have n := (inv_iff.1 h).1
  have ended : ∀ code, Inv p (complete code s) := fun _ =>
    inv_iff.2 ⟨⟨n.den, n.result, n.out, n.words⟩, .of_idle rfl⟩
  cases move with
  | stay => exact h
  | raise r => exact inv_withRecords h (some r) s.events s.bus s.observed s.draws
  | read v => exact inv_withRecords h s.fault s.events s.bus (s.observed ++ [v]) s.draws
  | store reg v mine _ idle =>
    exact inv_iff.2 ⟨writeReg_numbersLegal mine v n, .of_idle (by rw [writeReg_phase, idle])⟩
  | illegal => exact inv_iff.2 ⟨⟨n.den, n.result, n.out, n.words⟩, .of_idle rfl⟩
  | command c i t idle _ run => exact run_keeps_inv legal run idle ⟨n.den, n.result, n.out, n.words⟩
  | sent tx =>
    have latches := h.latches (by rw [tx]; nofun)
    exact inv_iff.2 ⟨⟨n.den, n.result, n.out, n.words⟩,
      ⟨fun _ => latchesLegal_congr latches rfl rfl rfl, nofun, nofun, nofun⟩⟩
  | await settle op =>
    have latches := h.latches (by rw [settle]; nofun)
    exact inv_iff.2 ⟨⟨n.den, n.result, n.out, n.words⟩,
      ⟨fun _ => latchesLegal_congr latches rfl rfl rfl, nofun, fun _ => op, nofun⟩⟩
  | received rx r len =>
    exact receive_keeps_inv legal (inv_withRecords h s.fault s.events (s.bus ++ [_]) s.observed s.draws) rx len
  | sendFailed | readFailed => exact inv_withRecords (ended _) s.fault s.events (s.bus ++ [_]) s.observed s.draws
  | settled | posted => exact ended _

/-- Every step is a move of the state with its input taken and its answer, if any, drawn. -/
theorem step_move_from {s t : State} (h : step s = .next t) :
    ∃ n, Move params { s with events := s.events.tail, draws := n } t := by
  obtain move | move := step_move h
  · exact ⟨s.draws, move⟩
  · exact ⟨s.draws + 1, move⟩

/-- Settles O44: every step is a move of the state with its input taken, and every move keeps the invariant. -/
theorem everyStepKeepsTheInvariant : Obligations.EveryStepKeepsTheInvariant := by
  intro s t h step
  obtain ⟨n, move⟩ := step_move_from step
  exact move_keeps_inv params_legal move (inv_withRecords h s.fault s.events.tail s.bus s.observed n)

/-- Settles O43: R250's values are legal and no command is in flight. -/
theorem invariantHoldsAfterReset : Obligations.InvariantHoldsAfterReset := by
  intro s es
  have zero : InNumeratorRange 0 := by unfold InNumeratorRange; decide
  refine inv_iff.2 ⟨⟨.inl rfl, zero, fun i => ?_, fun i _ => ?_⟩, .of_idle rfl⟩
  · simpa [resetInput, State.resetWith, Vector.get] using zero
  · simp [dataWord?, resetInput, State.resetWith]

/-! ## The fault mark and the latches of a running command -/

/-- Every command's effect leaves the fault mark alone or sets it. -/
theorem Effect.fault {p : Params} {i : Instr} {s t : State} (h : Effect p s i t) :
    t.fault = s.fault ∨ ∃ r, t.fault = some r := by
  cases h with
  | decodeUnheld | writeUnheld => exact .inr ⟨_, rfl⟩
  | crc8 | crcchk | sent | scale | roundMetric | roundImperial | decode | exec | read | write | badRead | badWrite =>
    exact .inl rfl

/-- Every move leaves the fault mark alone or sets it. -/
theorem move_fault {p : Params} {s t : State} (move : Move p s t) : t.fault = s.fault ∨ ∃ r, t.fault = some r := by
  cases move with
  | raise r => exact .inr ⟨r, rfl⟩
  | command c i t _ _ run => exact (run_effect run).fault
  | store reg v => exact .inl (by cases reg <;> rfl)
  | received _ r => exact .inl (by rw [receive_eq]; rfl)
  | stay | read | illegal | sent | sendFailed | await | settled | readFailed | posted => exact .inl rfl

/-- Settles O8: every move leaves a mark or sets another one. -/
theorem noStepClearsTheFaultMark : Obligations.NoStepClearsTheFaultMark := by
  intro s t r marked step
  obtain ⟨n, move⟩ := step_move_from step
  obtain ⟨r', still⟩ : ∃ r', t.fault = some r' := by
    obtain same | set := move_fault move
    · exact ⟨r, same.trans marked⟩
    · exact set
  refine ⟨⟨r', still⟩, ?_, ?_⟩
  · rintro ⟨-, clear, -⟩
    rw [marked] at clear
    cases clear
  · rintro ⟨-, clear, -⟩
    rw [still] at clear
    cases clear

/-- CMD, SETTLE, BUSADDR and every latch but L_CODE are the same in both states. -/
structure SameLatches (s t : State) : Prop where
  cmd : t.cmd = s.cmd
  lOp : t.lOp = s.lOp
  lOpc : t.lOpc = s.lOpc
  lNw : t.lNw = s.lNw
  lAddr : t.lAddr = s.lAddr
  lSettle : t.lSettle = s.lSettle
  lTxLen : t.lTxLen = s.lTxLen
  settle : t.settle = s.settle
  busAddr : t.busAddr = s.busAddr

/-- A move of a busy block keeps the latches (R42). -/
theorem move_keeps_latches {p : Params} {s t : State} (move : Move p s t) (running : s.phase ≠ .idle) :
    SameLatches s t ∧ (s.phase ≠ .rx → t.lCode = s.lCode) := by
  cases move with
  | store _ _ _ _ idle | illegal _ _ _ idle | command _ _ _ idle => exact absurd idle running
  | received rx r =>
    refine ⟨?_, absurd rx⟩
    rw [receive_eq]
    exact ⟨rfl, rfl, rfl, rfl, rfl, rfl, rfl, rfl, rfl⟩
  | stay | raise | read | sent | sendFailed | await | settled | readFailed | posted =>
    exact ⟨⟨rfl, rfl, rfl, rfl, rfl, rfl, rfl, rfl, rfl⟩, fun _ => rfl⟩

/-- Settles O48: the moves that write a latch need an idle block. -/
theorem runningCommandKeepsItsLatches : Obligations.RunningCommandKeepsItsLatches := by
  intro s t _ running step
  obtain ⟨n, move⟩ := step_move_from step
  obtain ⟨⟨cmd, lOp, lOpc, lNw, lAddr, lSettle, lTxLen, settle, busAddr⟩, lCode⟩ := move_keeps_latches move running
  exact ⟨cmd, lOp, lOpc, lNw, lAddr, lSettle, lTxLen, settle, busAddr, lCode⟩

/-! ## The CMD write of a command -/

/-- A CMD write to an idle block is the whole of R100. -/
theorem hostWrite_cmd_of_idle {s : State} (idle : s.phase = .idle) (c : Reg) :
    hostWrite params .w32 (offsetOf .cmd) c s = commandWrite params c s := by
  have free : busy s = false := by simp [busy, idle]
  have cmd : accessReg params .w32 (offsetOf .cmd) = .ok .cmd := regAt_offsetOf (p := params) (r := .cmd) trivial
  unfold hostWrite
  simp [cmd, accessOf, free]

/-- A command word that decodes runs on the state that has accepted it. -/
theorem commandWrite_of_decode {p : Params} {c : Reg} {i : Instr} (word : decode c = .ok i) (s : State) :
    commandWrite p c s = run p i (acceptWord c s) := by
  unfold commandWrite
  rw [word]

/-- Settles O7: a CMD write to an idle block, of a word that decodes. -/
theorem stepRunsTheDecodedCommand : Obligations.StepRunsTheDecodedCommand := by
  rintro s c i es ⟨⟨-, scheduled⟩, idle⟩ word
  rw [step_of_event scheduled, ← run_params]
  exact (hostWrite_cmd_of_idle (s := { s with events := es }) idle c).trans (commandWrite_of_decode word _)

/-! ## Decoding an encoded command -/

/-- The OP value of a command (R91). -/
def opNumber : Instr → Nat
  | .crc8 .. => 1
  | .crcchk .. => 2
  | .exec .. => 3
  | .write .. => 4
  | .read .. => 5
  | .sent .. => 6
  | .scale .. => 7
  | .roundMetric .. | .roundImperial .. => 8
  | .decodeRaw | .decodeMetric | .decodeImperial => 9

theorem opField_encode (i : Instr) : opField (encode i) = BitVec.ofNat 4 (opNumber i) := by
  apply BitVec.eq_of_toNat_eq
  rw [opField_toNat, encode_toNat]
  cases i <;> simp only [opNumber, BitVec.toNat_ofNat] <;> omega

/-- No reserved bit of an encoded command is set. -/
theorem encode_reserved_clear (i : Instr) : encode i &&& reservedMask (opField (encode i)) = 0 := by
  rw [opField_encode, reservedMask_clear_iff, encode_toNat]
  cases i
  case scale ch raw | roundMetric ch raw | roundImperial ch raw =>
    have := channelNumber_lt ch
    simp only [opNumber, BitVec.toNat_ofNat]
    omega
  all_goals
    simp only [opNumber, BitVec.toNat_ofNat]
    omega

/-- CH of an encoded command is its channel. -/
theorem channelOf_chField_encode {i : Instr} {ch : Channel} {raw : Word}
    (h : i = .scale ch raw ∨ i = .roundMetric ch raw ∨ i = .roundImperial ch raw) :
    channelOf (chField (encode i)) = ch := by
  have bits : chField (encode i) = channelBits ch := by
    apply field_eq
    have := channelNumber_lt ch
    rw [encode_toNat, channelBits, BitVec.toNat_ofNat]
    obtain rfl | rfl | rfl := h <;> simp only <;> omega
  rw [bits, channelOf_channelBits]

/-- The fields of an encoded command are its operands, as the command's number shows. -/
theorem decodeFields_encode (i : Instr) : decodeFields (encode i) = .ok i := by
  have op := opField_encode i
  have n := encode_toNat i
  cases i with
  | crc8 m l =>
    simp only at n
    have hm : msbField (encode (.crc8 m l)) = m := field_eq _ _ _ (by omega)
    have hl : lsbField (encode (.crc8 m l)) = l := field_eq _ _ _ (by omega)
    simp [decodeFields, op, opNumber, hm, hl]
  | crcchk m l k =>
    simp only at n
    have hm : msbField (encode (.crcchk m l k)) = m := field_eq _ _ _ (by omega)
    have hl : lsbField (encode (.crcchk m l k)) = l := field_eq _ _ _ (by omega)
    have hk : crcField (encode (.crcchk m l k)) = k := field_eq _ _ _ (by omega)
    simp [decodeFields, op, opNumber, hm, hl, hk]
  | exec opc =>
    simp only at n
    have ho : opcField (encode (.exec opc)) = opc := field_eq _ _ _ (by omega)
    simp [decodeFields, op, opNumber, ho]
  | write opc nw =>
    simp only at n
    have ho : opcField (encode (.write opc nw)) = opc := field_eq _ _ _ (by omega)
    have hn : nwField (encode (.write opc nw)) = nw := field_eq _ _ _ (by omega)
    simp [decodeFields, op, opNumber, ho, hn]
  | read opc nw =>
    simp only at n
    have ho : opcField (encode (.read opc nw)) = opc := field_eq _ _ _ (by omega)
    have hn : nwField (encode (.read opc nw)) = nw := field_eq _ _ _ (by omega)
    simp [decodeFields, op, opNumber, ho, hn]
  | sent raw =>
    simp only at n
    have hr : rawField (encode (.sent raw)) = raw := field_eq _ _ _ (by omega)
    simp [decodeFields, op, opNumber, hr]
  | scale ch raw =>
    simp only at n
    have := channelNumber_lt ch
    have hr : rawField (encode (.scale ch raw)) = raw := field_eq _ _ _ (by omega)
    simp [decodeFields, op, opNumber, hr, channelOf_chField_encode (.inl rfl)]
  | roundMetric ch raw =>
    simp only at n
    have := channelNumber_lt ch
    have hr : rawField (encode (.roundMetric ch raw)) = raw := field_eq _ _ _ (by omega)
    have hm : rmodeField (encode (.roundMetric ch raw)) = 1 :=
      field_eq _ _ _ (by simp only [n, BitVec.reduceToNat]; omega)
    simp [decodeFields, op, opNumber, hr, hm, channelOf_chField_encode (.inr (.inl rfl))]
  | roundImperial ch raw =>
    simp only at n
    have := channelNumber_lt ch
    have hr : rawField (encode (.roundImperial ch raw)) = raw := field_eq _ _ _ (by omega)
    have hm : rmodeField (encode (.roundImperial ch raw)) = 2 :=
      field_eq _ _ _ (by simp only [n, BitVec.reduceToNat]; omega)
    simp [decodeFields, op, opNumber, hr, hm, channelOf_chField_encode (.inr (.inr rfl))]
  | decodeRaw | decodeMetric | decodeImperial => rfl

/-- R92 to R99, R102: a command's word decodes to the command. -/
theorem decode_encode (i : Instr) : decode (encode i) = .ok i := by
  have op : opField (encode i) = BitVec.ofNat 4 (opNumber i) := opField_encode i
  have known : ¬ ((opField (encode i)).toNat = 0 ∨ 10 ≤ (opField (encode i)).toNat) := by
    rw [op]
    cases i <;> simp [opNumber]
  rw [decode, if_neg known, if_neg (not_not.2 (encode_reserved_clear i)), decodeFields_encode]

/-! ## What each command writes (R45) -/

section
variable {p : Params} {i : Instr} {s t : State}

/-- No command writes these in its accept step. -/
theorem Effect.untouched (h : Effect p s i t) :
    t.cmd = s.cmd ∧ t.events = s.events ∧ t.data = s.data ∧ t.dataValid = s.dataValid ∧ t.settle = s.settle ∧
      t.busAddr = s.busAddr ∧ t.bus = s.bus ∧ t.observed = s.observed ∧ t.draws = s.draws ∧ t.lCode = s.lCode := by
  cases h <;> exact ⟨rfl, rfl, rfl, rfl, rfl, rfl, rfl, rfl, rfl, rfl⟩

theorem Effect.result (h : Effect p s i t) (crc8 : ∀ a b, i ≠ .crc8 a b) (crcchk : ∀ a b c, i ≠ .crcchk a b c)
    (scale : ∀ a b, i ≠ .scale a b) (metric : ∀ a b, i ≠ .roundMetric a b) (imperial : ∀ a b, i ≠ .roundImperial a b) :
    t.result = s.result := by
  cases h with
  | crc8 => exact absurd rfl (crc8 _ _)
  | crcchk => exact absurd rfl (crcchk _ _ _)
  | scale => exact absurd rfl (scale _ _)
  | roundMetric => exact absurd rfl (metric _ _)
  | roundImperial => exact absurd rfl (imperial _ _)
  | sent | decode | decodeUnheld | exec | read | write | writeUnheld | badRead | badWrite => rfl

theorem Effect.den (h : Effect p s i t) (scale : ∀ a b, i ≠ .scale a b) (metric : ∀ a b, i ≠ .roundMetric a b)
    (imperial : ∀ a b, i ≠ .roundImperial a b) : t.den = s.den := by
  cases h with
  | scale => exact absurd rfl (scale _ _)
  | roundMetric => exact absurd rfl (metric _ _)
  | roundImperial => exact absurd rfl (imperial _ _)
  | crc8 | crcchk | sent | decode | decodeUnheld | exec | read | write | writeUnheld | badRead | badWrite => rfl

theorem Effect.reading (h : Effect p s i t) (decode : ∀ m, i ≠ decodeOf m) : t.out = s.out ∧ t.unkMask = s.unkMask := by
  cases h with
  | decode m => exact absurd rfl (decode m)
  | decodeUnheld | crc8 | crcchk | sent | scale | roundMetric | roundImperial | exec | read | write | writeUnheld
    | badRead | badWrite => exact ⟨rfl, rfl⟩

theorem Effect.matchBit (h : Effect p s i t) (crcchk : ∀ a b c, i ≠ .crcchk a b c) : t.matchBit = s.matchBit := by
  cases h with
  | crcchk => exact absurd rfl (crcchk _ _ _)
  | crc8 | sent | scale | roundMetric | roundImperial | decode | decodeUnheld | exec | read | write | writeUnheld
    | badRead | badWrite => rfl

theorem Effect.unknown (h : Effect p s i t) (sent : ∀ a, i ≠ .sent a) (scale : ∀ a b, i ≠ .scale a b)
    (metric : ∀ a b, i ≠ .roundMetric a b) (imperial : ∀ a b, i ≠ .roundImperial a b) (decode : ∀ m, i ≠ decodeOf m) :
    t.unknown = s.unknown := by
  cases h with
  | sent => exact absurd rfl (sent _)
  | scale => exact absurd rfl (scale _ _)
  | roundMetric => exact absurd rfl (metric _ _)
  | roundImperial => exact absurd rfl (imperial _ _)
  | decode m => exact absurd rfl (decode m)
  | crc8 | crcchk | decodeUnheld | exec | read | write | writeUnheld | badRead | badWrite => rfl

/-- A command that is no EXEC, WRITE or READ leaves FRAME and the latches alone and an idle block idle. -/
theorem Effect.codec (h : Effect p s i t) (idle : s.phase = .idle) (exec : ∀ a, i ≠ .exec a)
    (write : ∀ a b, i ≠ .write a b) (read : ∀ a b, i ≠ .read a b) :
    t.frame = s.frame ∧ t.phase = .idle ∧ t.lOp = s.lOp ∧ t.lOpc = s.lOpc ∧ t.lNw = s.lNw ∧ t.lAddr = s.lAddr ∧
      t.lSettle = s.lSettle ∧ t.lTxLen = s.lTxLen := by
  cases h with
  | exec => exact absurd rfl (exec _)
  | write | writeUnheld | badWrite => exact absurd rfl (write _ _)
  | read | badRead => exact absurd rfl (read _ _)
  | decodeUnheld => exact ⟨rfl, idle, rfl, rfl, rfl, rfl, rfl, rfl⟩
  | crc8 | crcchk | sent | scale | roundMetric | roundImperial | decode =>
    exact ⟨rfl, rfl, rfl, rfl, rfl, rfl, rfl, rfl⟩

end

/-- Settles O46: the CMD write runs the command on the state that has accepted its word, and each command's effect
writes its own registers only. -/
theorem commandsWriteOnlyTheirRegisters : Obligations.CommandsWriteOnlyTheirRegisters := by
  intro s t i es write step
  have effect : Effect params (acceptWord (encode i) { s with events := es }) i t := by
    apply run_effect
    rw [run_params]
    exact (stepRunsTheDecodedCommand s _ i es write (decode_encode i)).symm.trans step
  obtain ⟨cmd, events, data, valid, settle, busAddr, bus, observed, draws, lCode⟩ := effect.untouched
  exact ⟨cmd, events, data, valid, settle, busAddr, bus, observed, draws, lCode, effect.result, effect.den,
    effect.reading, effect.matchBit, effect.unknown, effect.codec write.2⟩

/-! ## The host's accesses, register by register -/

/-- An access to a register of the block names it. -/
theorem accessReg_offsetOf {r : HostReg} (mapped : Mapped r) : accessReg params .w32 (offsetOf r) = .ok r :=
  regAt_offsetOf ((hasReg_params r).2 mapped)

/-- What a read returns is what the register holds. -/
theorem readReg_eq_ok_iff (r : HostReg) (s : State) (v : Reg) : readReg r s = .ok v ↔ holds s r = some v := by
  cases r with
  | data i =>
    simp only [readReg, holds]
    cases dataWord? s i.val <;> simp
  | cmd | status | result | den | settle | busAddr | unkMask | out => simp [readReg, holds]

/-- A read of a register that holds a value. -/
theorem hostRead_of_value {r : HostReg} (mapped : Mapped r) {s : State} {v : Reg} (value : readReg r s = .ok v) :
    hostRead params .w32 (offsetOf r) s = .next (observe v s) := by
  unfold hostRead hostValue
  simp [accessReg_offsetOf mapped, value]

/-- A write to a register of class RO is ignored, of a busy block too. -/
theorem hostWrite_of_ro {r : HostReg} (ro : accessOf r = .ro) (v : Reg) (s : State) :
    hostWrite params .w32 (offsetOf r) v s = .next s := by
  have mapped : Mapped r := by rintro i rfl; cases ro
  unfold hostWrite
  simp [accessReg_offsetOf mapped, ro]

/-- A write to a register of class RW of an idle block. -/
theorem hostWrite_of_rw {r : HostReg} (mapped : Mapped r) (rw' : accessOf r = .rw) {s : State} (idle : s.phase = .idle)
    (v : Reg) : hostWrite params .w32 (offsetOf r) v s = .next (writeReg params r v s) := by
  have free : busy s = false := by simp [busy, idle]
  unfold hostWrite
  simp [accessReg_offsetOf mapped, rw', free]

/-- The step that a host write to a register of class RW of an idle block is. -/
theorem step_of_rwWrite {r : HostReg} (mapped : Mapped r) (rw' : accessOf r = .rw) {s : State} (idle : s.phase = .idle)
    {v : Reg} {es : List Event} (next : Next s (.hostWrite .w32 (offsetOf r) v) es) :
    step s = .next (writeReg params r v { s with events := es }) :=
  (step_of_event next.2).trans (hostWrite_of_rw mapped rw' (s := { s with events := es }) idle v)

/-- A write to a DATA word of the block makes it hold the low half of the value. -/
theorem dataWord?_writeReg_data (i : Fin dataCapacity) (v : Reg) (s : State) (j : Nat) :
    dataWord? (writeReg params (.data i) v s) j = if j = i.val then some (v.setWidth 16) else dataWord? s j := by
  rw [writeReg_params_data, dataWord?_writeData]
  by_cases h : j = i.val <;> simp [h]

/-- Settles O12: each access steps as the map says of its register. -/
theorem hostAccessesDoWhatTheMapSays : Obligations.HostAccessesDoWhatTheMapSays := by
  intro s es
  have low : ∀ (v : Reg) n, n ≤ 32 → v.setWidth n = v.extractLsb' 0 n := fun v n => BitVec.setWidth_eq_extractLsb'
  refine ⟨fun r v => readReg_eq_ok_iff r s v, fun r v mapped next value => ?_, fun r v ro next => ?_,
    fun idle => ⟨fun v next => ?_, fun v next => ?_, fun i v mapped next => ?_, fun v next => ?_⟩⟩
  · rw [step_of_event next.2]
    exact hostRead_of_value (s := { s with events := es }) mapped ((readReg_eq_ok_iff r s v).2 value)
  · rw [step_of_event next.2]
    exact hostWrite_of_ro ro v _
  · rw [step_of_rwWrite (r := .settle) nofun rfl idle next, ← low _ _ (by decide)]
    rfl
  · rw [step_of_rwWrite (r := .busAddr) nofun rfl idle next, ← low _ _ (by decide)]
    rfl
  · have inBlock : Mapped (.data i) := by rintro _ ⟨⟩; exact mapped
    refine ⟨_, step_of_rwWrite inBlock rfl idle next, rfl, fun j => ?_⟩
    rw [dataWord?_writeReg_data, low _ _ (by decide)]
    rfl
  · rw [step_of_event next.2]
    exact hostWrite_cmd_of_idle (s := { s with events := es }) idle v

/-! ## Reserved bits (R26) -/

/-- A value that fits below bit `k` has no bit of a mask that starts there. -/
theorem and_high_eq_zero {v m : Reg} (k n : Nat) (mask : m.toNat = (2 ^ n - 1) <<< k) (small : v.toNat < 2 ^ k) :
    v &&& m = 0 :=
  (and_run_eq_zero v k n m mask).2 (by rw [Nat.div_eq_of_lt small, Nat.zero_mod])

/-- A narrow field read as a register has no bit of a mask above it. -/
theorem setWidth_and_high_eq_zero {k : Nat} (x : BitVec k) {m : Reg} (n : Nat) (mask : m.toNat = (2 ^ n - 1) <<< k)
    (narrow : k ≤ 32) : x.setWidth 32 &&& m = 0 :=
  and_high_eq_zero k n mask (by rw [BitVec.toNat_setWidth_of_le narrow]; exact x.isLt)

/-- What a register reads as has no unnamed bit. -/
theorem readReg_reserved {s : State} {r : HostReg} {v : Reg} (value : readReg r s = .ok v) :
    v &&& ~~~ namedBits r = 0 := by
  rw [readReg_eq_ok_iff] at value
  cases r with
  | cmd | result | den | out => simp [namedBits]
  | status => cases value; exact and_high_eq_zero 10 22 rfl (statusWord_lt s)
  | settle => cases value; exact setWidth_and_high_eq_zero s.settle 16 rfl (by decide)
  | busAddr => cases value; exact setWidth_and_high_eq_zero s.busAddr 25 rfl (by decide)
  | unkMask => cases value; exact setWidth_and_high_eq_zero s.unkMask 24 rfl (by decide)
  | data i =>
    obtain ⟨w, -, rfl⟩ := Option.map_eq_some_iff.1 value
    exact setWidth_and_high_eq_zero w (m := ~~~0xFFFF) 16 rfl (by decide)

/-- The low bits of a value, read as a register. -/
theorem setWidth_setWidth_eq_and (v m : Reg) (k : Nat) (mask : m.toNat = 2 ^ k - 1) (narrow : k ≤ 32) :
    (v.setWidth k).setWidth 32 = v &&& m := by
  apply BitVec.eq_of_toNat_eq
  rw [BitVec.toNat_setWidth_of_le narrow, BitVec.toNat_setWidth, BitVec.toNat_and, mask, Nat.and_two_pow_sub_one_eq_mod]

/-- A value written to a register of class RW reads back less its unnamed bits. -/
theorem readReg_writeReg {r : HostReg} (rw' : accessOf r = .rw) (v : Reg) (s : State) :
    readReg r (writeReg params r v s) = .ok (v &&& namedBits r) := by
  cases r with
  | settle => exact congrArg _ (setWidth_setWidth_eq_and v _ 16 rfl (by decide))
  | busAddr => exact congrArg _ (setWidth_setWidth_eq_and v _ 7 rfl (by decide))
  | data i =>
    rw [readReg_eq_ok_iff, holds, dataWord?_writeReg_data, if_pos rfl]
    exact congrArg _ (setWidth_setWidth_eq_and v _ 16 rfl (by decide))
  | cmd | status | result | den | unkMask | out => cases rw'

/-- The schedule is nothing that a register shows. -/
theorem readReg_events (r : HostReg) (s : State) (es : List Event) :
    readReg r { s with events := es } = readReg r s := by
  cases r <;> rfl

/-- A write to a register is no read, and takes no step. -/
theorem writeReg_records (p : Params) (r : HostReg) (v : Reg) (s : State) :
    (writeReg p r v s).events = s.events ∧ (writeReg p r v s).observed = s.observed := by
  cases r <;> exact ⟨rfl, rfl⟩

/-- Settles O13: unnamed bits of what is read, and of what is written and read back. -/
theorem reservedBitsReadZeroAndIgnoreWrites : Obligations.ReservedBitsReadZeroAndIgnoreWrites := by
  refine ⟨fun s r v => readReg_reserved, fun s r v es mapped rw' idle next => ?_⟩
  have write := step_of_rwWrite mapped rw' idle next
  have value := readReg_writeReg rw' v { s with events := .hostRead .w32 (offsetOf r) :: es }
  obtain ⟨events, observed⟩ := writeReg_records params r v { s with events := .hostRead .w32 (offsetOf r) :: es }
  have read := (step_of_event events).trans (hostRead_of_value mapped ((readReg_events ..).trans value))
  exact ⟨_, _, write, read, congrArg (· ++ _) observed⟩

/-! ## States that step alike -/

/-- Two answers are alike: next states that `Q` relates, or the same refusal. -/
inductive Alike (Q : State → State → Prop) : Result → Result → Prop where
  | next {s t : State} (related : Q s t) : Alike Q (.next s) (.next t)
  | refused (r : Refusal) : Alike Q (.refused r) (.refused r)

/-- A relation that the parts of a step keep: what a step reads of a state is the same in both states, and what it
writes leaves them related. -/
structure StepRelation (p : Params) (Q : State → State → Prop) : Prop where
  phase {s t} (h : Q s t) : t.phase = s.phase
  events {s t} (h : Q s t) : t.events = s.events
  draws {s t} (h : Q s t) : t.draws = s.draws
  value {s t} (h : Q s t) (r : HostReg) : readReg r t = readReg r s
  latches {s t} (h : Q s t) (busy : s.phase ≠ .idle) :
    t.lOp = s.lOp ∧ t.lNw = s.lNw ∧ t.lAddr = s.lAddr ∧ t.lSettle = s.lSettle
  frame {s t} (h : Q s t) (tx : s.phase = .tx) : txFrame t = txFrame s
  outcome {s t} (h : Q s t) (post : s.phase = .post) : t.lCode = s.lCode
  take {s t} (h : Q s t) (es : List Event) : Q { s with events := es } { t with events := es }
  draw {s t} (h : Q s t) : Q (countDraw s) (countDraw t)
  raise {s t} (h : Q s t) (r : FaultReason) : Q (raiseFault r s) (raiseFault r t)
  observe {s t} (h : Q s t) (v : Reg) : Q (observe v s) (observe v t)
  issue {s t} (h : Q s t) (b : BusTxn) : Q (issue b s) (issue b t)
  enter {s t} (h : Q s t) (busy : s.phase ≠ .idle) {ph : Phase} (later : ph = .settle ∨ ph = .rx) :
    Q { s with phase := ph } { t with phase := ph }
  complete {s t} (h : Q s t) (code : Code) : Q (complete code s) (complete code t)
  receive {s t} (h : Q s t) (rx : s.phase = .rx) (r : List Byte) : Q (receive p r s) (receive p r t)
  store {s t} (h : Q s t) (idle : s.phase = .idle) (reg : HostReg) (v : Reg) :
    Q (writeReg p reg v s) (writeReg p reg v t)
  accept {s t} (h : Q s t) (idle : s.phase = .idle) (c : Reg) : Q (acceptWord c s) (acceptWord c t)
  effect {s t} (h : Q s t) (idle : s.phase = .idle) {i : Instr} {u : State} (e : Effect p s i u) :
    ∃ v, Effect p t i v ∧ Q u v

namespace StepRelation
variable {p : Params} {Q : State → State → Prop} (R : StepRelation p Q) {s t : State} (h : Q s t)
include R h

theorem commandWrite (idle : s.phase = .idle) (c : Reg) : Alike Q (commandWrite p c s) (commandWrite p c t) := by
  have accepted := R.accept h idle c
  unfold Machine.commandWrite
  cases decode c with
  | error e => exact .next (R.complete accepted .illegalCmd)
  | ok i =>
    obtain ⟨u, run⟩ := run_answers_next p i (acceptWord c s)
    obtain ⟨v, effect, related⟩ := R.effect accepted idle (run_effect run)
    simp only [run, run_of_effect effect]
    exact .next related

theorem hostWrite (w : AccessWidth) (off : BitVec 8) (v : Reg) :
    Alike Q (hostWrite p w off v s) (hostWrite p w off v t) := by
  have same : busy t = busy s := by unfold busy; rw [R.phase h]
  unfold Machine.hostWrite
  rw [same]
  cases accessReg p w off with
  | error r => exact .next (R.raise h r)
  | ok reg =>
    by_cases idle : s.phase = .idle
    · have free : busy s = false := by simp [busy, idle]
      cases access : accessOf reg <;> simp only [access, free, Bool.false_eq_true, if_false]
      · exact .next (R.store h idle reg v)
      · exact .next h
      · exact R.commandWrite h idle v
    · have running : busy s = true := (busy_eq_true_iff s).2 idle
      cases access : accessOf reg <;> simp only [access, running, if_true]
      · exact .next (R.raise h _)
      · exact .next h
      · exact .next (R.raise h _)

theorem hostRead (w : AccessWidth) (off : BitVec 8) : Alike Q (hostRead p w off s) (hostRead p w off t) := by
  have value : hostValue p w off t = hostValue p w off s := by
    unfold hostValue
    cases accessReg p w off with
    | error r => rfl
    | ok reg => exact R.value h reg
  unfold Machine.hostRead
  rw [value]
  cases hostValue p w off s with
  | error r => exact .next (R.raise h r)
  | ok v => exact .next (R.observe h v)

theorem txStep (tx : s.phase = .tx) (ok : Bool) : Alike Q (txStep ok s) (txStep ok t) := by
  have busy : s.phase ≠ .idle := by rw [tx]; nofun
  obtain ⟨-, -, addr, -⟩ := R.latches h busy
  have issued := R.issue h (.busWrite s.lAddr (txFrame s))
  unfold Machine.txStep
  rw [addr, R.frame h tx]
  cases ok with
  | true => exact .next (R.enter issued busy (.inl rfl))
  | false => exact .next (R.complete issued .transportError)

theorem settleStep (settle : s.phase = .settle) : Alike Q (settleStep s) (settleStep t) := by
  have busy : s.phase ≠ .idle := by rw [settle]; nofun
  obtain ⟨op, -, -, -⟩ := R.latches h busy
  unfold Machine.settleStep
  by_cases read : s.lOp = opRead
  · rw [if_pos read, if_pos (op.trans read)]
    exact .next (R.enter h busy (.inr rfl))
  · rw [if_neg read, if_neg (op.symm ▸ read)]
    exact .next (R.complete h .ok)

theorem rxStep (rx : s.phase = .rx) (a : Option (List Byte)) : Alike Q (rxStep p a s) (rxStep p a t) := by
  obtain ⟨-, nw, addr, -⟩ := R.latches h (by rw [rx]; nofun)
  have count : rxCount p t = rxCount p s := by unfold rxCount; rw [nw]
  have issued := R.issue h (.busRead s.lAddr (rxCount p s))
  unfold Machine.rxStep
  rw [addr, count]
  cases a with
  | none => exact .next (R.complete issued .transportError)
  | some r =>
    by_cases len : r.length = rxCount p s <;> simp only [len, if_true, if_false]
    · exact .next (R.receive issued rx r)
    · exact .refused _

theorem postStep (post : s.phase = .post) : Alike Q (postStep s) (postStep t) := by
  unfold Machine.postStep
  rw [R.outcome h post]
  exact .next (R.complete h s.lCode)

omit R h in
/-- Holds of one length end alike. -/
theorem endHold {a b : Result} (alike : Alike Q a b) (bound ms : Nat) :
    Alike Q (endHold bound ms a) (endHold bound ms b) := by
  unfold Machine.endHold
  split
  · exact alike
  · exact .refused _

theorem takeEvent (e : Event) : Alike Q (takeEvent p e s) (takeEvent p e t) := by
  cases e with
  | hostRead w off => exact R.hostRead h w off
  | hostWrite w off v => exact R.hostWrite h w off v
  | busWriteAnswer ok =>
    simp only [Machine.takeEvent, R.phase h]
    cases ph : s.phase with
    | tx => exact R.txStep h ph ok
    | idle | settle | rx | post => exact .refused _
  | busReadAnswer a =>
    simp only [Machine.takeEvent, R.phase h]
    cases ph : s.phase with
    | rx => exact R.rxStep h ph a
    | idle | tx | settle | post => exact .refused _
  | settleElapsed ms =>
    simp only [Machine.takeEvent, R.phase h]
    cases ph : s.phase with
    | settle =>
      obtain ⟨-, -, -, hold⟩ := R.latches h (by rw [ph]; nofun)
      simp only [hold]
      exact endHold (R.settleStep h ph) _ ms
    | post => exact endHold (R.postStep h ph) _ ms
    | idle | tx | rx => exact .refused _

theorem freeStep : Alike Q (freeStep p s) (freeStep p t) := by
  unfold Machine.freeStep
  rw [R.phase h, R.draws h]
  cases ph : s.phase with
  | idle => exact .next h
  | tx => exact R.txStep (R.draw h) ph _
  | settle => exact R.settleStep h ph
  | rx =>
    obtain ⟨-, nw, -, -⟩ := R.latches h (by rw [ph]; nofun)
    have count : rxCount p t = rxCount p s := by unfold rxCount; rw [nw]
    simp only [count]
    exact R.rxStep (R.draw h) ph _
  | post => exact R.postStep h ph

/-- Related states step alike. -/
theorem stepWith : Alike Q (stepWith p s) (stepWith p t) := by
  unfold Machine.stepWith
  rw [R.events h]
  cases s.events with
  | cons e es => exact R.takeEvent (R.take h es) e
  | nil => exact R.freeStep h

end StepRelation

/-! ## The fault mark -/

/-- The states differ in the fault mark only. -/
def SameButMark (s t : State) : Prop := ∃ f, t = { s with fault := f }

theorem dataHeld_congr {s t : State} (words : ∀ i, dataWord? t i = dataWord? s i) (n : Nat) :
    DataHeld t n ↔ DataHeld s n := by
  simp only [DataHeld, words]

theorem readingValid_congr (p : Params) {s t : State} (words : ∀ i, dataWord? t i = dataWord? s i) :
    readingValid p t = readingValid p s := by
  simp only [readingValid, words]

/-- A WRITE builds its frame without a look at the mark. -/
theorem builtWrite_mark (p : Params) (opc : Word) (nw : BitVec 6) (s : State) (f : Option FaultReason) :
    builtWrite p opc nw { s with fault := f } = { builtWrite p opc nw s with fault := f } := by
  have same : ∀ i, dataWord? (loadLatches p opWrite opc nw { s with fault := f }) i =
    dataWord? (loadLatches p opWrite opc nw s) i := fun _ => rfl
  simp only [builtWrite, buildWords_congr _ _ same]
  rfl

/-- A command has the same effect with any mark. -/
theorem effect_mark {p : Params} {i : Instr} {s u : State} (h : Effect p s i u) (f : Option FaultReason) :
    ∃ v, Effect p { s with fault := f } i v ∧ SameButMark u v := by
  cases h with
  | crc8 | crcchk | sent | scale | roundMetric | roundImperial | exec => exact ⟨_, by constructor, f, rfl⟩
  | decode m valid => exact ⟨_, .decode m valid, f, rfl⟩
  | decodeUnheld m invalid => exact ⟨_, .decodeUnheld m invalid, some _, rfl⟩
  | read opc nw legal => exact ⟨_, .read opc nw legal, f, rfl⟩
  | write opc nw legal held => exact ⟨_, .write opc nw legal held, f, by rw [builtWrite_mark]; rfl⟩
  | writeUnheld opc nw legal unheld =>
    exact ⟨_, .writeUnheld opc nw legal unheld, some _, by rw [builtWrite_mark]; rfl⟩
  | badRead opc nw illegal => exact ⟨_, .badRead opc nw illegal, f, rfl⟩
  | badWrite opc nw illegal => exact ⟨_, .badWrite opc nw illegal, f, rfl⟩

/-- The Rx step does the same with any mark. -/
theorem receive_mark (p : Params) (r : List Byte) (s : State) (f : Option FaultReason) :
    receive p r { s with fault := f } = { receive p r s with fault := f } := by
  obtain ⟨data, valid⟩ := writeDataFrom_congr (frameWords r) 0 (s := s) (t := { s with fault := f }) rfl rfl
  simp only [receive_eq, commit, data, valid]

/-- No part of a step reads the mark (R44). -/
theorem stepRelation_mark (p : Params) : StepRelation p SameButMark where
  phase := by rintro s _ ⟨f, rfl⟩; rfl
  events := by rintro s _ ⟨f, rfl⟩; rfl
  draws := by rintro s _ ⟨f, rfl⟩; rfl
  value := by rintro s _ ⟨f, rfl⟩ r; cases r <;> rfl
  latches := by rintro s _ ⟨f, rfl⟩ -; exact ⟨rfl, rfl, rfl, rfl⟩
  frame := by rintro s _ ⟨f, rfl⟩ -; rfl
  outcome := by rintro s _ ⟨f, rfl⟩ -; rfl
  take := by rintro s _ ⟨f, rfl⟩ es; exact ⟨f, rfl⟩
  draw := by rintro s _ ⟨f, rfl⟩; exact ⟨f, rfl⟩
  raise := by rintro s _ ⟨f, rfl⟩ r; exact ⟨some r, rfl⟩
  observe := by rintro s _ ⟨f, rfl⟩ v; exact ⟨f, rfl⟩
  issue := by rintro s _ ⟨f, rfl⟩ b; exact ⟨f, rfl⟩
  enter := by rintro s _ ⟨f, rfl⟩ - ph -; exact ⟨f, rfl⟩
  complete := by rintro s _ ⟨f, rfl⟩ code; exact ⟨f, rfl⟩
  receive := by rintro s _ ⟨f, rfl⟩ - r; exact ⟨f, receive_mark p r s f⟩
  store := by rintro s _ ⟨f, rfl⟩ - reg v; exact ⟨f, by cases reg <;> rfl⟩
  accept := by rintro s _ ⟨f, rfl⟩ - c; exact ⟨f, rfl⟩
  effect := by rintro s _ ⟨f, rfl⟩ - i u e; exact effect_mark e f

/-- Settles O52: states that differ in the mark only step alike. -/
theorem faultMarkChangesNoBehaviour : Obligations.FaultMarkChangesNoBehaviour := by
  intro s f
  have alike : Alike SameButMark (step s) (step { s with fault := f }) := (stepRelation_mark params).stepWith ⟨f, rfl⟩
  refine ⟨fun t next => ?_, fun r refused => ?_⟩
  · rw [next] at alike
    generalize step { s with fault := f } = answer at alike ⊢
    obtain ⟨g, rfl⟩ := alike
    exact ⟨g, rfl⟩
  · rw [refused] at alike
    generalize step { s with fault := f } = answer at alike ⊢
    cases alike
    rfl

/-! ## What no one can tell apart -/

section
variable {s t : State} (h : SameButInternal s t)
include h

theorem sameButInternal_complete (code : Code) : SameButInternal (complete code s) (complete code t) :=
  { h with code := rfl, phase := rfl }

theorem sameButInternal_raiseFault (r : FaultReason) : SameButInternal (raiseFault r s) (raiseFault r t) :=
  { h with fault := rfl }

theorem sameButInternal_acceptWord (c : Reg) : SameButInternal (acceptWord c s) (acceptWord c t) :=
  { h with cmd := rfl, code := rfl, matchBit := rfl, unknown := rfl }

theorem sameButInternal_writeReg (p : Params) (reg : HostReg) (v : Reg) :
    SameButInternal (writeReg p reg v s) (writeReg p reg v t) := by
  cases reg with
  | settle => exact { h with settle := rfl }
  | busAddr => exact { h with busAddr := rfl }
  | data i =>
    refine { h with words := fun j => ?_ }
    simp only [writeReg, dataWord?_writeData, h.words]
  | cmd | status | result | den | unkMask | out => exact h

theorem sameButInternal_startTx (n : Nat) : SameButInternal (startTx n s) (startTx n t) :=
  { h with phase := rfl }

theorem sameButInternal_loadLatches (p : Params) (op : BitVec 4) (opc : Word) (nw : BitVec 6) :
    SameButInternal (loadLatches p op opc nw s) (loadLatches p op opc nw t) :=
  { h with }

theorem sameButInternal_builtWrite (p : Params) (opc : Word) (nw : BitVec 6) :
    SameButInternal (builtWrite p opc nw s) (builtWrite p opc nw t) :=
  { h with }

/-- A lane of a valid reading sees words that hold values only. -/
theorem lane_congr {p : Params} {ch : Channel} (valid : readingValid p s = true) (has : hasChannel p ch = true)
    (m : RMode) : lane p t m ch = lane p s m ch := by
  have held := (readingValid_iff p s).1 valid (channelNumber ch) (of_decide_eq_true has)
  obtain ⟨w, hs⟩ := Option.isSome_iff_exists.1 held
  have ht := (h.words _).trans hs
  obtain ⟨_, -, ws⟩ := (dataWord?_eq_some_iff ..).1 hs
  obtain ⟨_, -, wt⟩ := (dataWord?_eq_some_iff ..).1 ht
  have word : t.data.get (slotOf ch) = s.data.get (slotOf ch) := wt.trans ws.symm
  simp only [lane, word]

theorem sameButInternal_decodeReading {p : Params} (valid : readingValid p s = true) (m : RMode) :
    SameButInternal (decodeReading p m s) (decodeReading p m t) := by
  have out : ∀ ch, laneOut p t m ch = laneOut p s m ch := by
    intro ch
    unfold laneOut
    split
    · next has => rw [lane_congr h valid has]
    · rw [h.out]
  have mask : laneUnknown p t m = laneUnknown p s m := by
    funext ch
    unfold laneUnknown
    cases has : hasChannel p ch with
    | false => rfl
    | true => rw [lane_congr h valid has]
  exact { h with
    out := by simp only [decodeReading, out]
    unkMask := by simp only [decodeReading_unkMask, mask]
    unknown := by simp only [decodeReading_unknown, mask] }

theorem sameButInternal_receive (p : Params) (r : List Byte) : SameButInternal (receive p r s) (receive p r t) := by
  have words : ∀ i, dataWord? (receive p r t) i = dataWord? (receive p r s) i := by
    intro i
    simp only [dataWord?_receive, commit, dataWord?_writeDataFrom, h.words]
  rw [receive_eq, receive_eq] at words ⊢
  exact { h with words := words, phase := rfl, code := by simp only [h.code] }

end

/-- With no command in flight nothing internal is to be read. -/
theorem indistinguishable_of_idle {s t : State} (h : SameButInternal s t) (idle : s.phase = .idle) :
    Indistinguishable s t :=
  ⟨h, fun busy => absurd idle busy, fun tx => (nomatch idle.symm.trans tx),
    fun post => (nomatch idle.symm.trans post)⟩

/-- What an accept step leaves waiting for the transport is told apart by its latches and its frame only. -/
theorem indistinguishable_startTx {s t : State} (h : SameButInternal s t)
    (latches : t.lOp = s.lOp ∧ t.lNw = s.lNw ∧ t.lAddr = s.lAddr ∧ t.lSettle = s.lSettle) {n : Nat}
    (frame : txFrame (startTx n t) = txFrame (startTx n s)) : Indistinguishable (startTx n s) (startTx n t) where
  outside := sameButInternal_startTx h n
  latches _ := latches
  frame _ := frame
  outcome := nofun

/-- An EXEC and a READ send the same two bytes from the same latches. -/
theorem indistinguishable_opcode (p : Params) {s t : State} (h : SameButInternal s t) (op : BitVec 4) (opc : Word)
    (nw : BitVec 6) :
    Indistinguishable (startTx 2 (loadLatches p op opc nw s)) (startTx 2 (loadLatches p op opc nw t)) := by
  refine indistinguishable_startTx (sameButInternal_loadLatches h p op opc nw) ⟨rfl, rfl, h.busAddr, ?_⟩ ?_
  · rw [loadLatches_lSettle, loadLatches_lSettle, h.settle]
  · rw [txFrame_opcode, txFrame_opcode]

/-- A WRITE sends the same frame from the same words. -/
theorem wireData_congr (p : Params) {s t : State} (words : ∀ i, dataWord? t i = dataWord? s i) {n : Nat}
    (held : DataHeld s n) : wireData p t n = wireData p s n := by
  have held' := (dataHeld_congr words n).2 held
  have same : wordAt t = wordAt s := by funext i; simp only [wordAt, words]
  rw [wireData, wireData, ← map_wordAt_range held, ← map_wordAt_range held', same]

/-- A WRITE sends the same frame from words that no one can tell apart. -/
theorem indistinguishable_write {p : Params} (legal : p.Legal) {s t : State} (h : SameButInternal s t) (opc : Word)
    {nw : BitVec 6} (count : nwLegal p nw = true) (held : DataHeld s nw.toNat) :
    Indistinguishable (startTx (2 + p.wireBytes * nw.toNat) (builtWrite p opc nw s))
      (startTx (2 + p.wireBytes * nw.toNat) (builtWrite p opc nw t)) := by
  refine indistinguishable_startTx (sameButInternal_builtWrite h p opc nw) ⟨rfl, rfl, h.busAddr, ?_⟩ ?_
  · exact congrArg (effectiveSettle p.minSettleMs) h.settle
  · rw [txFrame_write legal opc count held, txFrame_write legal opc count ((dataHeld_congr h.words _).2 held),
      wireData_congr p h.words held]

/-- A command on idle blocks that no one can tell apart leaves them so. -/
theorem effect_indistinguishable {p : Params} (legal : p.Legal) {i : Instr} {s t u : State} (h : SameButInternal s t)
    (idle : s.phase = .idle) (e : Effect p s i u) : ∃ v, Effect p t i v ∧ Indistinguishable u v := by
  have unchanged : ∀ code, Indistinguishable (complete code s) (complete code t) := fun code =>
    indistinguishable_of_idle (sameButInternal_complete h code) rfl
  have quantity : ∀ ch raw m, Indistinguishable (convert p ch raw m s) (convert p ch raw m t) := fun ch raw m =>
    indistinguishable_of_idle { h with unknown := rfl, result := rfl, den := rfl, code := rfl, phase := rfl } rfl
  have held := dataHeld_congr h.words
  have reading := readingValid_congr p h.words
  cases e with
  | crc8 msb lsb =>
    exact ⟨_, .crc8 msb lsb, indistinguishable_of_idle { h with result := rfl, code := rfl, phase := rfl } rfl⟩
  | crcchk msb lsb crc =>
    exact ⟨_, .crcchk msb lsb crc,
      indistinguishable_of_idle { h with result := rfl, matchBit := rfl, code := rfl, phase := rfl } rfl⟩
  | sent raw =>
    exact ⟨_, .sent raw, indistinguishable_of_idle { h with unknown := rfl, code := rfl, phase := rfl } rfl⟩
  | scale ch raw => exact ⟨_, .scale ch raw, quantity ..⟩
  | roundMetric ch raw => exact ⟨_, .roundMetric ch raw, quantity ..⟩
  | roundImperial ch raw => exact ⟨_, .roundImperial ch raw, quantity ..⟩
  | decode m valid =>
    exact ⟨_, .decode m (reading.trans valid),
      indistinguishable_of_idle (sameButInternal_complete (sameButInternal_decodeReading h valid m) .ok) rfl⟩
  | decodeUnheld m invalid =>
    exact ⟨_, .decodeUnheld m (reading.trans invalid), indistinguishable_of_idle (sameButInternal_raiseFault h _) idle⟩
  | exec opc => exact ⟨_, .exec opc, indistinguishable_opcode p h opExec opc 0⟩
  | read opc nw count => exact ⟨_, .read opc nw count, indistinguishable_opcode p h opRead opc nw⟩
  | write opc nw count all =>
    exact ⟨_, .write opc nw count ((held _).2 all), indistinguishable_write legal h opc count all⟩
  | writeUnheld opc nw count unheld =>
    have built := sameButInternal_builtWrite h p opc nw
    exact ⟨_, .writeUnheld opc nw count (mt (held _).1 unheld),
      indistinguishable_of_idle (sameButInternal_raiseFault built _) idle⟩
  | badRead opc nw illegal => exact ⟨_, .badRead opc nw illegal, unchanged _⟩
  | badWrite opc nw illegal => exact ⟨_, .badWrite opc nw illegal, unchanged _⟩

/-- A register shows nothing internal. -/
theorem readReg_congr {s t : State} (h : SameButInternal s t) (r : HostReg) : readReg r t = readReg r s := by
  cases r with
  | cmd => simp only [readReg, h.cmd]
  | status => simp only [readReg, statusWord, busy, h.phase, h.code, h.matchBit, h.unknown]
  | result => simp only [readReg, h.result]
  | den => simp only [readReg, h.den]
  | settle => simp only [readReg, h.settle]
  | busAddr => simp only [readReg, h.busAddr]
  | unkMask => simp only [readReg, h.unkMask]
  | out i => simp only [readReg, h.out]
  | data i => simp only [readReg, h.words]

/-- No part of a step tells such states apart. -/
theorem stepRelation_indistinguishable {p : Params} (legal : p.Legal) : StepRelation p Indistinguishable where
  phase h := h.outside.phase
  events h := h.outside.events
  draws h := h.outside.draws
  value h := readReg_congr h.outside
  latches h := h.latches
  frame h := h.frame
  outcome h := h.outcome
  take h _ := ⟨{ h.outside with events := rfl }, h.latches, h.frame, h.outcome⟩
  draw h := ⟨{ h.outside with draws := congrArg (· + 1) h.outside.draws }, h.latches, h.frame, h.outcome⟩
  raise h r := ⟨sameButInternal_raiseFault h.outside r, h.latches, h.frame, h.outcome⟩
  observe h v := ⟨{ h.outside with observed := congrArg (· ++ [v]) h.outside.observed }, h.latches, h.frame, h.outcome⟩
  issue h b := ⟨{ h.outside with bus := congrArg (· ++ [b]) h.outside.bus }, h.latches, h.frame, h.outcome⟩
  enter h busy _ later := by
    refine ⟨{ h.outside with phase := rfl }, fun _ => h.latches busy, fun tx => ?_, fun post => ?_⟩
    · obtain rfl | rfl := later <;> cases tx
    · obtain rfl | rfl := later <;> cases post
  complete h code := indistinguishable_of_idle (sameButInternal_complete h.outside code) rfl
  receive {s t} h rx r := by
    have latches := h.latches (by rw [rx]; nofun)
    refine ⟨sameButInternal_receive h.outside p r, fun _ => ?_, fun tx => ?_, fun _ => ?_⟩
    · rw [receive_eq, receive_eq]; exact latches
    · rw [receive_eq] at tx
      by_cases hold : 0 < p.postReadSettleMs <;> simp [hold] at tx
    · rw [receive_eq, receive_eq]
  store h idle reg v :=
    indistinguishable_of_idle (sameButInternal_writeReg h.outside p reg v) ((writeReg_phase ..).trans idle)
  accept h idle c := indistinguishable_of_idle (sameButInternal_acceptWord h.outside c) idle
  effect h idle _ _ e := effect_indistinguishable legal h.outside idle e

/-- Settles O49: states that no one can tell apart step alike. -/
theorem unspecifiedContentIsNeverObserved : Obligations.UnspecifiedContentIsNeverObserved := by
  intro s t h
  have alike : Alike Indistinguishable (step s) (step t) := (stepRelation_indistinguishable params_legal).stepWith h
  generalize step s = a at alike ⊢
  generalize step t = b at alike ⊢
  cases alike with
  | next related => exact .inl ⟨_, _, rfl, rfl, related⟩
  | refused r => exact .inr ⟨r, rfl, rfl⟩

end Sys2Proof.Proofs.StateRules
end

section
/-! PROOFS. The statements of the memory family: what makes an access illegal and which step raises each fault reason,
what a busy block refuses and keeps, and what reaches the bus. -/

open Sys2Proof Sys2Proof.Machine Sys2Proof.Rule
open Sys2Proof.Proofs.Scope (params_legal regAt_error_cases)
open Sys2Proof.Proofs.StateRules

namespace Sys2Proof.Proofs.Memory

/-! ## Illegal accesses -/

/-- What is wrong with an access of this width at this offset that faults with this reason (R61, R62, R63), in the
order of log 8. The reasons of R67 and R68 are no matter of width and offset. -/
def WrongAccess (w : AccessWidth) (off : BitVec 8) : FaultReason → Prop
  | .badWidth => w ≠ .w32
  | .misaligned => w = .w32 ∧ off.toNat % 4 ≠ 0
  | .unmapped => w = .w32 ∧ off.toNat % 4 = 0 ∧ (off.toNat = 0x1C ∨ 0x80 ≤ off.toNat)
  | .writeWhileBusy | .unwrittenData => False

/-- The map of the block of R6 turns away exactly the unaligned offsets and those of no register. -/
theorem regAt_params_eq_error_iff (off : BitVec 8) (r : FaultReason) :
    regAt params off = .error r ↔ WrongAccess .w32 off r := by
  cases r with
  | misaligned => simpa [WrongAccess] using regAt_eq_misaligned_iff params off
  | unmapped =>
    simp only [WrongAccess, true_and]
    exact regAt_eq_unmapped_iff (p := params) rfl off
  | badWidth | writeWhileBusy | unwrittenData =>
    refine ⟨fun h => ?_, fun wrong => absurd wrong (by simp [WrongAccess])⟩
    cases regAt_error_cases h <;> contradiction

/-- An access names no register for a wrong width, alignment or offset, and for nothing else. -/
theorem accessReg_params_eq_error_iff (w : AccessWidth) (off : BitVec 8) (r : FaultReason) :
    accessReg params w off = .error r ↔ WrongAccess w off r := by
  by_cases whole : w = .w32
  · subst whole
    exact regAt_params_eq_error_iff off r
  · have narrow : accessReg params w off = .error .badWidth := if_neg (mt (widthBits_eq_32_iff w).1 whole)
    rw [narrow]
    cases r <;> simp [WrongAccess, whole]

theorem hostRead_of_error {p : Params} {w : AccessWidth} {off : BitVec 8} {s : State} {r : FaultReason}
    (error : hostValue p w off s = .error r) : hostRead p w off s = .next (raiseFault r s) := by
  unfold hostRead
  rw [error]

theorem hostWrite_of_error {p : Params} {w : AccessWidth} {off : BitVec 8} {r : FaultReason}
    (error : accessReg p w off = .error r) (v : Reg) (s : State) :
    hostWrite p w off v s = .next (raiseFault r s) := by
  unfold hostWrite
  rw [error]

theorem hostValue_of_error {p : Params} {w : AccessWidth} {off : BitVec 8} {r : FaultReason}
    (error : accessReg p w off = .error r) (s : State) : hostValue p w off s = .error r := by
  unfold hostValue
  rw [error]

/-- A wrong access, read or write, sets the mark with its reason and changes no register. -/
theorem step_of_wrongAccess {w : AccessWidth} {off : BitVec 8} {r : FaultReason} (wrong : WrongAccess w off r)
    {s : State} {v : Reg} {es : List Event}
    (access : Next s (.hostRead w off) es ∨ Next s (.hostWrite w off v) es) :
    step s = .next { s with events := es, fault := some r } := by
  have error := (accessReg_params_eq_error_iff w off r).2 wrong
  obtain ⟨-, scheduled⟩ | ⟨-, scheduled⟩ := access
  · rw [step_of_event scheduled]
    exact hostRead_of_error (hostValue_of_error error _)
  · rw [step_of_event scheduled]
    exact hostWrite_of_error error v _

/-- Settles O11: an access of each wrong kind steps to the state with the mark. -/
theorem illegalAccessesFault : Obligations.IllegalAccessesFault := by
  intro s w off v es access
  refine ⟨fun narrow => ?_, fun whole unaligned => ?_, fun whole aligned unmapped => ?_⟩
  · exact step_of_wrongAccess (r := .badWidth) narrow access
  · exact step_of_wrongAccess (r := .misaligned) ⟨whole, unaligned⟩ access
  · exact step_of_wrongAccess (r := .unmapped) ⟨whole, aligned, unmapped⟩ access

/-! ## Words that hold no value -/

/-- A DATA word holds no value exactly when its validity bit is false. -/
theorem dataWord?_eq_none_iff (s : State) (i : Fin dataCapacity) :
    dataWord? s i.val = none ↔ s.dataValid.get i = false := by
  unfold dataWord?
  rw [dif_pos i.isLt]
  cases valid : s.dataValid.get i <;> simp_all [Vector.get]

/-- The only register that may hold no value is a DATA word. -/
theorem readReg_eq_error_iff (reg : HostReg) (s : State) (r : FaultReason) :
    readReg reg s = .error r ↔ r = .unwrittenData ∧ ∃ i, reg = .data i ∧ s.dataValid.get i = false := by
  cases reg with
  | data i =>
    rw [readReg]
    cases word : dataWord? s i.val with
    | none => simp [(dataWord?_eq_none_iff s i).1 word, eq_comm (a := r)]
    | some w =>
      have valid : s.dataValid.get i ≠ false := mt (dataWord?_eq_none_iff s i).2 (by simp [word])
      simp [valid]
  | cmd | status | result | den | settle | busAddr | unkMask | out => simp [readReg]

theorem hostValue_offsetOf {reg : HostReg} (mapped : Mapped reg) (s : State) :
    hostValue params .w32 (offsetOf reg) s = readReg reg s := by
  unfold hostValue
  rw [accessReg_offsetOf mapped]

theorem mapped_data_iff (i : Fin dataCapacity) : Mapped (.data i) ↔ i.val < 16 :=
  ⟨fun mapped => mapped i rfl, fun inBlock => by rintro _ ⟨⟩; exact inBlock⟩

/-- Settles O16: the read's value is that of its register, which has none. -/
theorem readOfUnwrittenDataFaults : Obligations.ReadOfUnwrittenDataFaults := by
  rintro s i es inBlock invalid ⟨-, scheduled⟩
  rw [step_of_event scheduled]
  apply hostRead_of_error
  rw [hostValue_offsetOf ((mapped_data_iff i).2 inBlock)]
  exact (readReg_eq_error_iff _ _ _).2 ⟨rfl, i, rfl, invalid⟩

/-! ## The causes of the fault reasons (R230) -/

/-- A 32-bit access of the block of R6 that names a register is at its offset. -/
theorem of_accessReg_params {w : AccessWidth} {off : BitVec 8} {reg : HostReg} (h : accessReg params w off = .ok reg) :
    w = .w32 ∧ off = offsetOf reg ∧ Mapped reg := by
  obtain ⟨width, at_, mine⟩ := (accessReg_eq_ok_iff params w off reg).1 h
  exact ⟨(widthBits_eq_32_iff w).1 width, at_.symm, (hasReg_params reg).1 mine⟩

/-- CMD is the one register of its class (R25). -/
theorem eq_cmd_of_accessOf {reg : HostReg} (isCmd : accessOf reg = .cmd) : reg = .cmd := by
  cases reg with
  | cmd => rfl
  | status | result | den | settle | busAddr | unkMask | out | data => cases isCmd

/-- Why a host read has no value to return: a wrong access, or a word that holds none. -/
theorem hostValue_params_error {w : AccessWidth} {off : BitVec 8} {s : State} {r : FaultReason}
    (h : hostValue params w off s = .error r) :
    WrongAccess w off r ∨ (r = .unwrittenData ∧ w = .w32 ∧
      ∃ i, off = offsetOf (.data i) ∧ i.val < 16 ∧ s.dataValid.get i = false) := by
  unfold hostValue at h
  split at h
  · next error =>
    cases h
    exact .inl ((accessReg_params_eq_error_iff w off r).1 error)
  · next reg named =>
    obtain ⟨width, at_, mapped⟩ := of_accessReg_params named
    obtain ⟨reason, i, rfl, invalid⟩ := (readReg_eq_error_iff reg s r).1 h
    exact .inr ⟨reason, width, i, at_, (mapped_data_iff i).1 mapped, invalid⟩

/-- A CMD write of `c` to this idle block is a WRITE or DECODE that needs a word holding no value (R151, R205). -/
def NeedsUnwritten (s : State) (c : Reg) : Prop :=
  ∃ k, dataWord? s k = none ∧ ((∃ opc nw, decode c = .ok (.write opc nw) ∧ k < nw.toNat ∧ nw.toNat ≤ 16) ∨
    ∃ m, decode c = .ok (decodeOf m) ∧ k < 8)

section
variable {s t : State} {r : FaultReason} (marked : t.fault = some r) (new : s.fault ≠ some r)
include marked new

/-- A mark that a step has set is not the one that stood before. -/
theorem fault_ne_of_new : t.fault ≠ s.fault := fun same => new (same.symm.trans marked)

/-- A host read raises a reason for a wrong access, or for a DATA word that holds no value. -/
theorem cause_of_hostRead {w : AccessWidth} {off : BitVec 8} (h : hostRead params w off s = .next t) :
    WrongAccess w off r ∨ (r = .unwrittenData ∧ w = .w32 ∧
      ∃ i, off = offsetOf (.data i) ∧ i.val < 16 ∧ s.dataValid.get i = false) := by
  obtain ⟨r', error, rfl⟩ | ⟨v, -, rfl⟩ := hostRead_cases w off s t h
  · cases marked
    exact hostValue_params_error error
  · exact absurd rfl (fault_ne_of_new marked new)

/-- A CMD write to an idle block raises UNWRITTEN_DATA, for a command that needs a word holding no value. -/
theorem cause_of_commandWrite {c : Reg} (h : commandWrite params c s = .next t) :
    r = .unwrittenData ∧ NeedsUnwritten s c := by
  obtain ⟨e, -, rfl⟩ | ⟨i, word, run⟩ := commandWrite_cases c s t h
  · exact absurd rfl (fault_ne_of_new marked new)
  · obtain same | ⟨raised, k, unheld, needs⟩ := run_fault run
    · exact absurd same (fault_ne_of_new marked new)
    · refine ⟨Option.some.inj (marked.symm.trans raised), k, unheld, ?_⟩
      obtain ⟨opc, nw, rfl, legal, inWrite⟩ | ⟨isDecode, inReading⟩ := needs
      · exact .inl ⟨opc, nw, word, inWrite, ((nwLegal_iff params nw).1 legal).2⟩
      · right
        obtain rfl | rfl | rfl := isDecode
        · exact ⟨.raw, word, inReading⟩
        · exact ⟨.metric, word, inReading⟩
        · exact ⟨.imperial, word, inReading⟩

/-- A host write raises a reason for a wrong access, for a register it may not write while BUSY, or for a command that
needs a word holding no value. -/
theorem cause_of_hostWrite {w : AccessWidth} {off : BitVec 8} {v : Reg} (h : hostWrite params w off v s = .next t) :
    WrongAccess w off r ∨
    (r = .writeWhileBusy ∧ s.phase ≠ .idle ∧ w = .w32 ∧
      ∃ reg, off = offsetOf reg ∧ Mapped reg ∧ accessOf reg ≠ .ro) ∨
    (r = .unwrittenData ∧ s.phase = .idle ∧ w = .w32 ∧ off = 0x00 ∧ NeedsUnwritten s v) := by
  have changed := fault_ne_of_new marked new
  obtain ⟨r', error, rfl⟩ | ⟨reg, -, -, rfl⟩ | ⟨reg, named, notRo, running, rfl⟩ | ⟨reg, -, -, -, rfl⟩ |
    ⟨reg, named, isCmd, idle, command⟩ := hostWrite_cases w off v s t h
  · cases marked
    exact .inl ((accessReg_params_eq_error_iff w off r).1 error)
  · exact absurd rfl changed
  · cases marked
    obtain ⟨width, at_, mapped⟩ := of_accessReg_params named
    exact .inr (.inl ⟨rfl, running, width, reg, at_, mapped, notRo⟩)
  · exact absurd (by cases reg <;> rfl) changed
  · obtain ⟨width, at_, -⟩ := of_accessReg_params named
    obtain ⟨reason, needs⟩ := cause_of_commandWrite marked new command
    obtain rfl := eq_cmd_of_accessOf isCmd
    exact .inr (.inr ⟨reason, idle, width, at_, needs⟩)

end

/-! The transport's and the environment's steps leave the mark alone. -/

section
variable {p : Params} {s t : State}

theorem txStep_fault {ok : Bool} (h : txStep ok s = .next t) : t.fault = s.fault := by
  unfold txStep at h
  split at h <;> cases h <;> rfl

theorem settleStep_fault (h : settleStep s = .next t) : t.fault = s.fault := by
  unfold settleStep at h
  split at h <;> cases h <;> rfl

theorem rxStep_fault {a : Option (List Byte)} (h : rxStep p a s = .next t) : t.fault = s.fault := by
  simp only [rxStep] at h
  split at h
  · cases h; rfl
  · split at h <;> cases h
    rw [receive_eq]; rfl

theorem postStep_fault (h : postStep s = .next t) : t.fault = s.fault := by
  cases h; rfl

theorem freeStep_fault (h : freeStep p s = .next t) : t.fault = s.fault := by
  unfold freeStep at h
  split at h
  · cases h; rfl
  · exact txStep_fault (s := countDraw s) h
  · exact settleStep_fault h
  · exact rxStep_fault (s := countDraw s) h
  · exact postStep_fault h

/-- Of the scheduled steps only a host access changes the mark. -/
theorem hostEvent_of_fault_ne {e : Event} (h : takeEvent p e s = .next t) (changed : t.fault ≠ s.fault) :
    (∃ w off, e = .hostRead w off) ∨ ∃ w off v, e = .hostWrite w off v := by
  cases e with
  | hostRead w off => exact .inl ⟨w, off, rfl⟩
  | hostWrite w off v => exact .inr ⟨w, off, v, rfl⟩
  | busWriteAnswer ok =>
    simp only [takeEvent] at h
    split at h
    · exact absurd (txStep_fault h) changed
    all_goals cases h
  | busReadAnswer a =>
    simp only [takeEvent] at h
    split at h
    · exact absurd (rxStep_fault h) changed
    all_goals cases h
  | settleElapsed ms =>
    simp only [takeEvent] at h
    split at h
    · exact absurd (settleStep_fault (endHold_next h).2) changed
    · exact absurd (postStep_fault (endHold_next h).2) changed
    all_goals cases h

/-- A step that changes the mark is a host access. -/
theorem hostAccess_of_fault_ne (h : step s = .next t) (changed : t.fault ≠ s.fault) : ∃ w off es,
    (s.events = .hostRead w off :: es ∧ hostRead params w off { s with events := es } = .next t) ∨
    ∃ v, s.events = .hostWrite w off v :: es ∧ hostWrite params w off v { s with events := es } = .next t := by
  cases scheduled : s.events with
  | nil => exact absurd (freeStep_fault ((step_of_free scheduled).symm.trans h)) changed
  | cons e es =>
    rw [step_of_event scheduled] at h
    obtain ⟨w, off, rfl⟩ | ⟨w, off, v, rfl⟩ := hostEvent_of_fault_ne h changed
    · exact ⟨w, off, es, .inl ⟨rfl, h⟩⟩
    · exact ⟨w, off, es, .inr ⟨v, rfl, h⟩⟩

end

/-- The registers a busy block of R6 does not let be written (R67). -/
theorem writable_cases {reg : HostReg} (mapped : Mapped reg) (notRo : accessOf reg ≠ .ro) :
    reg = .cmd ∨ reg = .settle ∨ reg = .busAddr ∨ ∃ i, i.val < 16 ∧ reg = .data i := by
  cases reg with
  | cmd | settle | busAddr => simp
  | data i => exact .inr (.inr (.inr ⟨i, (mapped_data_iff i).1 mapped, rfl⟩))
  | status | result | den | unkMask | out => exact absurd rfl notRo

/-- The three reasons of a wrong access, each with what is wrong. -/
theorem cause_of_wrongAccess {w : AccessWidth} {off : BitVec 8} {r : FaultReason} (wrong : WrongAccess w off r)
    {s : State} {v : Reg} {es : List Event}
    (access : s.events = .hostRead w off :: es ∨ s.events = .hostWrite w off v :: es) :
    (r = .badWidth ∧ ∃ w off v es, w ≠ .w32 ∧
      (s.events = .hostRead w off :: es ∨ s.events = .hostWrite w off v :: es)) ∨
    (r = .misaligned ∧ ∃ off v es, off.toNat % 4 ≠ 0 ∧
      (s.events = .hostRead .w32 off :: es ∨ s.events = .hostWrite .w32 off v :: es)) ∨
    (r = .unmapped ∧ ∃ off v es, off.toNat % 4 = 0 ∧ (off.toNat = 0x1C ∨ 0x80 ≤ off.toNat) ∧
      (s.events = .hostRead .w32 off :: es ∨ s.events = .hostWrite .w32 off v :: es)) := by
  cases r with
  | badWidth => exact .inl ⟨rfl, w, off, v, es, wrong, access⟩
  | misaligned =>
    obtain ⟨rfl, unaligned⟩ := wrong
    exact .inr (.inl ⟨rfl, off, v, es, unaligned, access⟩)
  | unmapped =>
    obtain ⟨rfl, aligned, nowhere⟩ := wrong
    exact .inr (.inr ⟨rfl, off, v, es, aligned, nowhere, access⟩)
  | writeWhileBusy | unwrittenData => exact wrong.elim

/-- Settles O9: only a host access raises a mark, and what it raises has its cause. -/
theorem faultsAreRaisedOnlyByTheirCauses : Obligations.FaultsAreRaisedOnlyByTheirCauses := by
  intro s t r step marked new
  obtain ⟨w, off, es, ⟨scheduled, read⟩ | ⟨v, scheduled, write⟩⟩ :=
    hostAccess_of_fault_ne step (fault_ne_of_new marked new)
  · obtain wrong | ⟨rfl, rfl, i, rfl, inBlock, invalid⟩ :=
      cause_of_hostRead (s := { s with events := es }) marked new read
    · exact (cause_of_wrongAccess (v := 0) wrong (.inl scheduled)).imp_right (·.imp_right .inl)
    · exact .inr (.inr (.inr (.inr ⟨rfl, .inl ⟨i, es, inBlock, invalid, scheduled⟩⟩)))
  · obtain wrong | ⟨rfl, running, rfl, reg, rfl, mapped, notRo⟩ | ⟨rfl, idle, rfl, rfl, i, unheld, needs⟩ :=
      cause_of_hostWrite (s := { s with events := es }) marked new write
    · exact (cause_of_wrongAccess wrong (.inr scheduled)).imp_right (·.imp_right .inl)
    · exact .inr (.inr (.inr (.inl ⟨rfl, running, reg, v, es, scheduled, writable_cases mapped notRo⟩)))
    · exact .inr (.inr (.inr (.inr ⟨rfl, .inr ⟨idle, v, es, i, scheduled, unheld, needs⟩⟩)))

/-! ## A busy block (R67) -/

/-- While BUSY a write to a register that is not of class RO is refused. -/
theorem hostWrite_of_busy {reg : HostReg} (mapped : Mapped reg) (notRo : accessOf reg ≠ .ro) {s : State}
    (running : s.phase ≠ .idle) (v : Reg) :
    hostWrite params .w32 (offsetOf reg) v s = .next (raiseFault .writeWhileBusy s) := by
  have isBusy := (busy_eq_true_iff s).2 running
  unfold hostWrite
  rw [accessReg_offsetOf mapped]
  cases kind : accessOf reg with
  | ro => exact absurd kind notRo
  | rw | cmd => simp [kind, isBusy]

/-- A move of a busy block keeps RESULT, DEN, OUT and UNKMASK, and outside RX it keeps DATA. -/
theorem move_keeps_results {p : Params} {s t : State} (move : Move p s t) (running : s.phase ≠ .idle) :
    t.result = s.result ∧ t.den = s.den ∧ t.out = s.out ∧ t.unkMask = s.unkMask ∧
      (s.phase ≠ .rx → t.data = s.data ∧ t.dataValid = s.dataValid) := by
  cases move with
  | store _ _ _ _ idle | illegal _ _ _ idle | command _ _ _ idle => exact absurd idle running
  | received rx r =>
    rw [receive_eq]
    exact ⟨rfl, rfl, rfl, rfl, absurd rx⟩
  | stay | raise | read | sent | sendFailed | await | settled | readFailed | posted =>
    exact ⟨rfl, rfl, rfl, rfl, fun _ => ⟨rfl, rfl⟩⟩

/-- In RX only the transport's answer writes DATA: a host access does not, and no other step is enabled (R255). -/
theorem takeEvent_of_rx_keeps_data {p : Params} {e : Event} {s t : State} (rx : s.phase = .rx)
    (other : ∀ a, e ≠ .busReadAnswer a) (h : takeEvent p e s = .next t) :
    t.data = s.data ∧ t.dataValid = s.dataValid := by
  have running : s.phase ≠ .idle := by rw [rx]; nofun
  cases e with
  | hostRead w off =>
    obtain ⟨r, -, rfl⟩ | ⟨v, -, rfl⟩ := hostRead_cases w off s t h <;> exact ⟨rfl, rfl⟩
  | hostWrite w off v =>
    obtain ⟨r, -, rfl⟩ | ⟨reg, -, -, rfl⟩ | ⟨reg, -, -, -, rfl⟩ | ⟨reg, -, -, idle, -⟩ | ⟨reg, -, -, idle, -⟩ :=
      hostWrite_cases w off v s t h
    · exact ⟨rfl, rfl⟩
    · exact ⟨rfl, rfl⟩
    · exact ⟨rfl, rfl⟩
    · exact absurd idle running
    · exact absurd idle running
  | busReadAnswer a => exact absurd rfl (other a)
  | busWriteAnswer ok => simp [takeEvent, rx] at h
  | settleElapsed ms => simp [takeEvent, rx] at h

/-- Settles O15: the host's accesses to a busy block, STATUS's PHASE, and the results over a move of it. -/
theorem busyBlockRefusesWritesAndKeepsResults : Obligations.BusyBlockRefusesWritesAndKeepsResults := by
  intro s es running
  refine ⟨fun reg v mapped notRo next => ?_, fun reg v mapped next value => ?_,
    ⟨statusWord s, rfl, statusWord_phase s⟩, fun t _ step => ?_⟩
  · rw [step_of_event next.2]
    exact hostWrite_of_busy (s := { s with events := es }) mapped notRo running v
  · rw [step_of_event next.2]
    exact hostRead_of_value (s := { s with events := es }) mapped ((readReg_events reg s es).trans value)
  · obtain ⟨n, move⟩ := step_move_from step
    obtain ⟨result, den, out, unkMask, data⟩ := move_keeps_results move running
    refine ⟨result, den, out, unkMask, fun kept => ?_⟩
    by_cases rx : s.phase = .rx
    · obtain ⟨e, rest, scheduled, other⟩ := kept.resolve_left (absurd rx)
      rw [step_of_event scheduled] at step
      exact takeEvent_of_rx_keeps_data (s := { s with events := rest }) rx other step
    · exact data rx

/-! ## The frame of a WRITE -/

/-- The bytes `wireData` gives are the payload of R71 and R72. -/
theorem wireData_eq_payload (s : State) (n : Nat) : wireData params s n = payload (s.data.toList.take n) := rfl

/-- A WRITE's build leaves FRAME past its own bytes alone. -/
theorem builtWrite_frame_get_of_ge {p : Params} (three : p.wireBytes = 3) (opc : Word) {nw : BitVec 6} {s : State}
    (room : nw.toNat ≤ dataCapacity) (held : DataHeld s nw.toNat) (k : Fin frameCapacity)
    (past : 2 + 3 * nw.toNat ≤ k.val) : (builtWrite p opc nw s).frame.get k = s.frame.get k := by
  have len : (opcodeBytes opc ++ wireData p s nw.toNat).length = 2 + 3 * nw.toNat := by
    rw [List.length_append, length_wireData p s room]; rfl
  have byte := putFrame_getElem (opcodeBytes opc ++ wireData p s nw.toNat) 0 s.frame k.val k.isLt
  rw [if_neg (by omega)] at byte
  rw [builtWrite_frame three opc held]
  exact byte

/-- Settles O34: the effect of a WRITE of a legal count, its frame and what it leaves of FRAME. -/
theorem writeCompletes : Obligations.WriteCompletes := by
  intro opc nw s one max held
  have count : nwLegal params nw = true := (nwLegal_iff params nw).2 ⟨one, max⟩
  have ran := (run_params (.write opc nw) s).symm.trans (run_of_effect (.write opc nw count held))
  have frame := txFrame_write params_legal opc count held
  refine ⟨_, ran, rfl, effectiveSettle_toNat (by decide) s.settle, ?_, frame, fun k past => ?_⟩
  · rw [startTx_lTxLen, params_wireBytes, BitVec.toNat_ofNat]
    omega
  · exact builtWrite_frame_get_of_ge params_wireBytes opc (max.trans (by decide)) held k past

/-! ## What reaches the bus (R78) -/

/-- A move issues no transaction but the frame that waits in TX and the read of a READ in RX. -/
theorem move_bus {p : Params} {s t : State} (move : Move p s t) :
    t.bus = s.bus ∨
    (s.phase = .tx ∧ t.bus = s.bus ++ [.busWrite s.lAddr (txFrame s)]) ∨
    (s.phase = .rx ∧ t.bus = s.bus ++ [.busRead s.lAddr (rxCount p s)]) := by
  cases move with
  | sent tx | sendFailed tx => exact .inr (.inl ⟨tx, rfl⟩)
  | readFailed rx => exact .inr (.inr ⟨rx, rfl⟩)
  | received rx r => exact .inr (.inr ⟨rx, by rw [receive_eq]; rfl⟩)
  | command c i t _ _ run =>
    obtain ⟨-, -, -, -, -, -, bus, -⟩ := (run_effect run).untouched
    exact .inl bus
  | store reg v => exact .inl (by cases reg <;> rfl)
  | stay | raise | read | illegal | await | settled | posted => exact .inl rfl

/-- The word count a WRITE or READ in flight has latched is one the block runs. -/
theorem latchesLegal_count {p : Params} {s : State} (latches : LatchesLegal p s) (op : s.lOp ≠ opExec) :
    1 ≤ s.lNw.toNat ∧ s.lNw.toNat ≤ p.maxWords := by
  have words := latches.words
  rw [if_neg op] at words
  exact (nwLegal_iff p s.lNw).1 words

/-- The frame R71 gives is the opcode, with a WRITE's words behind it at three bytes each. -/
theorem length_expectedFrame (p : Params) {s : State} (room : s.lNw.toNat ≤ dataCapacity) :
    (expectedFrame p s).length = 2 + if s.lOp = opWrite then 3 * s.lNw.toNat else 0 := by
  rw [expectedFrame, List.length_append]
  split
  · rw [length_wireData p s room]; rfl
  · rfl

/-- Settles O47: the frame in TX is the one R71 gives, and a block in RX runs a READ of a legal count. -/
theorem onlyFramesOfR71ReachTheBus : Obligations.OnlyFramesOfR71ReachTheBus := by
  intro s t _ inv step
  obtain ⟨n, move⟩ := step_move_from step
  obtain same | ⟨tx, bus⟩ | ⟨rx, bus⟩ := move_bus move
  · exact .inl same
  · have latches := inv.latches (by rw [show s.phase = .tx from tx]; nofun)
    refine .inr (.inl ⟨txFrame s, tx, bus, ?_⟩)
    rw [(inv.frame tx).1]
    by_cases op : s.lOp = opWrite
    · obtain ⟨one, max⟩ := latchesLegal_count latches (by rw [op]; decide)
      rw [length_expectedFrame params (max.trans (by decide)), if_pos op]
      exact .inr ⟨op, rfl, one, max⟩
    · refine .inl ⟨op, ?_⟩
      simp [expectedFrame, op, opcodeBytes]
  · have latches := inv.latches (by rw [show s.phase = .rx from rx]; nofun)
    obtain ⟨one, max⟩ := latchesLegal_count latches (by rw [inv.rx rx]; decide)
    exact .inr (.inr ⟨rx, bus, one, max⟩)

end Sys2Proof.Proofs.Memory
end

section
/-! PROOFS. The statements of the encoding family: words and commands one to one, what makes a word illegal and what the
CMD write of an illegal word or a bad count does, and the assembler's pseudo-instructions. -/

open Sys2Proof Sys2Proof.Machine Sys2Proof.Rule
open Sys2Proof.Proofs.Scope (nwLegal_eq_false runWrite_of_not_nwLegal runRead_of_not_nwLegal)
open Sys2Proof.Proofs.StateRules (decode_encode hostWrite_cmd_of_idle commandWrite_of_decode)

namespace Sys2Proof.Proofs.Encoding

/-! ## Words and commands, one to one -/

/-- Settles O1: no field of a command is lost in its word. -/
theorem decodeReadsBackEveryEncoding : Obligations.DecodeReadsBackEveryEncoding := decode_encode

theorem decode_of_encode_eq {c : Reg} {i : Instr} (word : encode i = c) : decode c = .ok i :=
  word ▸ decode_encode i

/-- Settles O4: each word is its command's encoding, so it decodes to the command. -/
theorem spelledOutWordsDecode : Obligations.SpelledOutWordsDecode := by
  refine ⟨?_, ?_, ?_, ?_, ?_, ?_, ?_, ?_, ?_, ?_⟩ <;> exact decode_of_encode_eq rfl

/-- What decoding has checked of a word that is a command (R100). -/
theorem decode_eq_ok_iff (c : Reg) (i : Instr) : decode c = .ok i ↔
    ¬ ((opField c).toNat = 0 ∨ 10 ≤ (opField c).toNat) ∧ c &&& reservedMask (opField c) = 0 ∧
      decodeFields c = .ok i := by
  unfold decode
  split
  · next unknown => exact ⟨nofun, fun ⟨known, _⟩ => absurd unknown known⟩
  · next known =>
    split
    · next reserved => exact ⟨nofun, fun ⟨_, clear, _⟩ => absurd clear reserved⟩
    · next clear => exact ⟨fun fields => ⟨known, not_not.1 clear, fields⟩, fun ⟨_, _, fields⟩ => fields⟩

/-- A word's bits are its fields and its format's reserved bits: with the reserved ones clear, the fields give the word
back. -/
theorem encode_of_decodeFields {c : Reg} {i : Instr} (clear : c &&& reservedMask (opField c) = 0)
    (fields : decodeFields c = .ok i) : encode i = c := by
  apply BitVec.eq_of_toNat_eq
  have lt := c.isLt
  have opBits := opField_toNat c
  rw [reservedMask_clear_iff] at clear
  rw [encode_toNat]
  unfold decodeFields at fields
  split at fields
  case h_8 op | h_9 op =>
    have rmodeBits : (rmodeField c).toNat = c.toNat / 2 ^ 8 % 2 ^ 2 := toNat_field c 8 2
    rw [op] at opBits clear
    split at fields <;> cases fields <;>
      simp only [channelNumber_channelOf, rawField, chField, toNat_field] at clear ⊢ <;> omega
  case h_10 => cases fields
  all_goals
    next op =>
    rw [op] at opBits clear
    cases fields
    simp only [channelNumber_channelOf, msbField, lsbField, crcField, opcField, nwField, rawField, chField,
      toNat_field] at clear ⊢
    omega

/-- Settles O2: its fields and its clear reserved bits give the word back. -/
theorem decodedWordIsItsEncoding : Obligations.DecodedWordIsItsEncoding := by
  intro c i word
  obtain ⟨-, clear, fields⟩ := (decode_eq_ok_iff c i).1 word
  exact encode_of_decodeFields clear fields

/-! ## Illegal words (R101) -/

theorem opField_toNat_eq_op (c : Reg) : (opField c).toNat = op c := opField_toNat c

theorem rmodeField_toNat_eq_rmode (c : Reg) : (rmodeField c).toNat = rmode c := toNat_field c 8 2

theorem nwField_toNat_eq_nw (c : Reg) : (nwField c).toNat = nw c := toNat_field c 10 6

/-- RES(op) has exactly the bits that the format tables reserve. -/
theorem getLsbD_reservedMask (b : BitVec 4) (k : Nat) :
    (reservedMask b).getLsbD k = true ↔ ReservedBit b.toNat k := by
  by_cases inWord : k < 32
  · have table : ∀ (b : Fin 16) (k : Fin 32), (reservedMask (.ofFin b)).getLsbD k = true ↔ ReservedBit b k := by
      unfold ReservedBit
      decide
    exact table b.toFin ⟨k, inWord⟩
  · rw [BitVec.getLsbD_of_ge _ _ (not_lt.1 inWord)]
    unfold ReservedBit
    simp only [Bool.false_eq_true, false_iff]
    omega

/-- A masked word is not 0 where a bit of the mask is set in it. -/
theorem and_ne_zero_iff {w : Nat} (c m : BitVec w) :
    c &&& m ≠ 0 ↔ ∃ k, m.getLsbD k = true ∧ c.getLsbD k = true := by
  constructor
  · intro nonzero
    by_contra apart
    refine nonzero (BitVec.eq_of_getLsbD_eq fun k _ => ?_)
    rw [BitVec.getLsbD_and, BitVec.ofNat_eq_ofNat, BitVec.getLsbD_zero, Bool.eq_false_iff]
    exact fun both => apart ⟨k, (Bool.and_eq_true_iff.1 both).symm⟩
  · rintro ⟨k, mask, word⟩ zero
    simpa [mask, word] using congrArg (fun x => x.getLsbD k) zero

/-- The reserved-bit check refuses a word with a bit set that its format reserves. -/
theorem reserved_set_iff (c : Reg) :
    c &&& reservedMask (opField c) ≠ 0 ↔ ∃ k, ReservedBit (op c) k ∧ c.getLsbD k = true := by
  simp only [and_ne_zero_iff, getLsbD_reservedMask, opField_toNat_eq_op]

/-- The RMODE check refuses 3 in a ROUND or DECODE and 0 in a ROUND. -/
theorem decodeFields_error_iff {c : Reg} (known : ¬ (op c = 0 ∨ 10 ≤ op c)) :
    (∃ e, decodeFields c = .error e) ↔
      ((op c = 8 ∨ op c = 9) ∧ rmode c = 3) ∨ (op c = 8 ∧ rmode c = 0) := by
  obtain ⟨one, nine⟩ : 1 ≤ op c ∧ op c ≤ 9 := by omega
  have small : rmode c < 4 := Nat.mod_lt _ (by decide)
  unfold decodeFields
  rw [opField_toNat_eq_op, rmodeField_toNat_eq_rmode]
  generalize op c = o, rmode c = m at *
  obtain noMode | rfl | rfl : o ≤ 7 ∨ o = 8 ∨ o = 9 := by omega
  · interval_cases o <;> simp
  · interval_cases m <;> simp
  · interval_cases m <;> simp

/-- Decoding refuses exactly the illegal words. -/
theorem decode_error_iff_illegal (c : Reg) : (∃ e, decode c = .error e) ↔ Illegal c := by
  unfold decode Illegal
  rw [opField_toNat_eq_op]
  split
  · next unknown => exact iff_of_true ⟨_, rfl⟩ (.inl unknown)
  · next known =>
    rw [← reserved_set_iff, ← decodeFields_error_iff known, or_iff_right known]
    split
    · next reserved => exact iff_of_true ⟨_, rfl⟩ (.inl reserved)
    · next clear => rw [or_iff_right clear]

/-- A word that is not illegal passes the OP and reserved-bit checks. -/
theorem decode_of_legal {c : Reg} (legal : ¬ Illegal c) : decode c = decodeFields c := by
  cases word : decode c with
  | error e => exact absurd ((decode_error_iff_illegal c).1 ⟨e, word⟩) legal
  | ok i =>
    obtain ⟨-, -, fields⟩ := (decode_eq_ok_iff c i).1 word
    exact fields.symm

/-! ## The CMD write of an illegal word or a bad count -/

/-- A command that completes at once in an idle block leaves its word, its code and cleared flags. -/
theorem complete_acceptWord {s : State} (idle : s.phase = .idle) (c : Reg) (code : Code) :
    complete code (acceptWord c s) = { s with cmd := c, code := code, matchBit := false, unknown := false } := by
  simp [complete, acceptWord, idle]

theorem commandWrite_of_error {p : Params} {c : Reg} {e : DecodeError} (word : decode c = .error e) (s : State) :
    commandWrite p c s = .next (complete .illegalCmd (acceptWord c s)) := by
  unfold commandWrite
  rw [word]

/-- A WRITE or READ of a bad count completes with LENGTH_ERROR. -/
theorem commandWrite_of_badCount {c : Reg} (legal : ¬ Illegal c) (bad : BadCount c) (s : State) :
    commandWrite params c s = .next (complete .lengthError (acceptWord c s)) := by
  obtain ⟨known, count⟩ := bad
  rw [← nwField_toNat_eq_nw] at count
  have bad : nwLegal params (nwField c) = false := nwLegal_eq_false count
  have fields := decode_of_legal legal
  unfold decodeFields at fields
  rw [opField_toNat_eq_op] at fields
  obtain write | read := known
  · simp only [write] at fields
    rw [commandWrite_of_decode fields]
    exact runWrite_of_not_nwLegal bad _ _
  · simp only [read] at fields
    rw [commandWrite_of_decode fields]
    exact runRead_of_not_nwLegal bad _ _

/-- The CMD write to an idle block, where its command completes at once with a code. -/
theorem step_of_commandWrite_complete {s : State} {c : Reg} {es : List Event} (write : CmdWrite s c es) {code : Code}
    (command : ∀ s, commandWrite params c s = .next (complete code (acceptWord c s))) :
    step s = .next { s with events := es, cmd := c, code := code, matchBit := false, unknown := false } := by
  obtain ⟨⟨-, scheduled⟩, idle⟩ := write
  have idle' : ({ s with events := es } : State).phase = .idle := idle
  rw [step_of_event scheduled]
  exact (hostWrite_cmd_of_idle idle' c).trans ((command _).trans (congrArg _ (complete_acceptWord idle' c code)))

/-- Settles O3: what decoding refuses, and the two completions. -/
theorem illegalWordsAndBadCountsComplete : Obligations.IllegalWordsAndBadCountsComplete := by
  intro s c es write
  refine ⟨decode_error_iff_illegal c, fun illegal => ?_, fun legal bad => ?_⟩
  · obtain ⟨e, word⟩ := (decode_error_iff_illegal c).2 illegal
    exact step_of_commandWrite_complete write (commandWrite_of_error word)
  · exact step_of_commandWrite_complete write (commandWrite_of_badCount legal bad)

/-! ## Pseudo-instructions (R103, R104) -/

theorem fit_of_lt {n v : Nat} (fits : v < 2 ^ n) : fit n v = some (BitVec.ofNat n v) := if_pos fits

theorem fit_of_ge {n v : Nat} (wide : 2 ^ n ≤ v) : fit n v = none := if_neg (not_lt.2 wide)

/-- `W[15:8]` of a literal (R104). -/
theorem msbOf_ofNat (w : Nat) (fits : w < 2 ^ 16) : msbOf (BitVec.ofNat 16 w) = BitVec.ofNat 8 (w / 256) := by
  apply BitVec.eq_of_toNat_eq
  simp only [msbOf, BitVec.extractLsb'_toNat, BitVec.toNat_ofNat, Nat.shiftRight_eq_div_pow]
  omega

/-- `W[7:0]` of a literal (R104). -/
theorem lsbOf_ofNat (w : Nat) : lsbOf (BitVec.ofNat 16 w) = BitVec.ofNat 8 (w % 256) := by
  apply BitVec.eq_of_toNat_eq
  simp [lsbOf]

/-- A W literal of 16 bits fits, and so do its two bytes (R104). -/
theorem fit_bytes_of_word {w : Nat} (fits : w < 2 ^ 16) :
    fit 16 w = some (BitVec.ofNat 16 w) ∧ fit 8 (w / 256) = some (msbOf (BitVec.ofNat 16 w)) ∧
      fit 8 (w % 256) = some (lsbOf (BitVec.ofNat 16 w)) := by
  refine ⟨fit_of_lt fits, ?_, ?_⟩
  · rw [msbOf_ofNat w fits, fit_of_lt (by omega)]
  · rw [lsbOf_ofNat, fit_of_lt (by omega)]

/-- Settles O5: a literal of 16 bits is its two bytes, and one that does not fit gives no command. -/
theorem pseudoInstructionsExpand : Obligations.PseudoInstructionsExpand := by
  refine ⟨fun w fits => ?_, fun w k fits => ?_, fun ch raw => rfl, rfl, fun w wide => ?_, fun w k wide => ?_,
    fun ch raw wide => ?_, fun n raw wide => ?_⟩
  · obtain ⟨word, high, low⟩ := fit_bytes_of_word fits
    simp [assemble, word, high, low]
  · obtain ⟨word, high, low⟩ := fit_bytes_of_word fits
    simp [assemble, word, high, low]
  · simp [assemble, fit_of_ge wide]
  · obtain wide | wide := wide <;> simp [assemble, fit_of_ge wide]
  · simp [assemble, fit_of_ge wide]
  · simp [assemble, chOperand, fit_of_ge (n := 3) wide]

end Sys2Proof.Proofs.Encoding
end

section
/-! PROOFS. The statements of the CRC family. Each is assembled from two facts: the ROM of R121 is the list of the values of
`Shift8`, and `Shift8` loses no bit of its byte, because a round puts the bit it shifts out into bit 0. -/

open Sys2Proof Sys2Proof.Machine Sys2Proof.Rule
open Sys2Proof.Proofs.Scope (length_crcTable)
open Sys2Proof.Proofs.StateRules (Effect run_of_effect)

namespace Sys2Proof.Proofs.Crc

/-! ## The ROM and the two cores (R121 to R123) -/

theorem crcTable_eq_map_shift8 : crcTable = (List.range 256).map fun i => shift8 (BitVec.ofNat 8 i) := by
  decide +kernel

/-- R121: a look-up in the ROM is `Shift8`. -/
theorem romByte_crcTable (i : Byte) : romByte crcTable i = shift8 i := by
  simp [romByte, crcTable_eq_map_shift8, List.getD_eq_getElem?_getD, i.isLt]

/-- Settles O17: the ROM's length and its look-ups. -/
theorem crcRomIsShift8OfTheIndex : Obligations.CrcRomIsShift8OfTheIndex :=
  ⟨length_crcTable, romByte_crcTable⟩

/-- R123: the two look-ups in the ROM of R121 are the polynomial core. -/
theorem crcTableCore_crcTable (msb lsb : Byte) : crcTableCore crcTable msb lsb = crcPolyCore msb lsb := by
  simp only [crcTableCore, romByte_crcTable, crcPolyCore, crcPolyRun]

theorem crc8_params (msb lsb : Byte) : crc8 params msb lsb = crcPolyCore msb lsb := crcTableCore_crcTable msb lsb

/-- R122: a legal block's `Crc8` is the two look-ups in its own ROM, whichever its engine. -/
theorem crc8_of_legal {p : Params} (legal : p.Legal) (msb lsb : Byte) :
    crc8 p msb lsb = crcTableCore p.crcTable msb lsb := by
  unfold crc8
  cases engine : p.crcImpl with
  | table => rfl
  | poly =>
    rw [legal.poly engine]
    exact (crcTableCore_crcTable msb lsb).symm

/-- Settles O18: the cores agree through R121's ROM, which is the ROM of every block with the polynomial core. -/
theorem polynomialCoreEqualsTheTable : Obligations.PolynomialCoreEqualsTheTable :=
  ⟨fun _ msb lsb => ⟨rfl, (crcTableCore_crcTable msb lsb).symm⟩, fun _ legal => crc8_of_legal legal⟩

/-! ## `Shift8` loses nothing (R121) -/

/-- The polynomial 0x31 has bit 0, so a round leaves the bit it shifts out there. -/
theorem shiftOnce_getLsbD_zero (c : Byte) : (shiftOnce c).getLsbD 0 = c.getLsbD 7 := by
  unfold shiftOnce
  split <;> simp_all

theorem shiftOnce_injective : Function.Injective shiftOnce := by
  intro a b same
  have top : a.getLsbD 7 = b.getLsbD 7 := by
    rw [← shiftOnce_getLsbD_zero, ← shiftOnce_getLsbD_zero, same]
  have rest : a <<< 1 = b <<< 1 := by
    unfold shiftOnce at same
    rw [top] at same
    split at same
    · exact (BitVec.xor_left_inj _).1 same
    · exact same
  apply BitVec.eq_of_getElem_eq
  intro i hi
  obtain rfl | low : i = 7 ∨ i + 1 < 8 := by omega
  · exact top
  · simpa [low] using congrArg (BitVec.getLsbD · (i + 1)) rest

theorem shift8_injective : Function.Injective shift8 :=
  shiftOnce_injective.iterate 8

theorem shift8_eq_zero_iff (c : Byte) : shift8 c = 0 ↔ c = 0 :=
  shift8_injective.eq_iff' (by decide)

/-! ## What a check tells (R124, R163) -/

/-- The CRC tells any two first bytes of a word apart. -/
theorem crcPolyCore_msb_inj {msb msb' lsb : Byte} : crcPolyCore msb' lsb = crcPolyCore msb lsb ↔ msb' = msb := by
  simp only [crcPolyCore, crcPolyRun, shift8_injective.eq_iff, BitVec.xor_left_inj, BitVec.xor_right_inj]

/-- The CRC tells any two second bytes of a word apart. -/
theorem crcPolyCore_lsb_inj {msb lsb lsb' : Byte} : crcPolyCore msb lsb' = crcPolyCore msb lsb ↔ lsb' = lsb := by
  simp only [crcPolyCore, crcPolyRun, shift8_injective.eq_iff, BitVec.xor_right_inj]

/-- R124 (b): the residue over three bytes is 0 exactly where the third is the CRC of the others. -/
theorem crcPolyRun_triple_eq_zero_iff (msb lsb k : Byte) :
    crcPolyRun 0xFF [msb, lsb, k] = 0 ↔ k = crcPolyCore msb lsb := by
  calc shift8 (crcPolyCore msb lsb ^^^ k) = 0
    _ ↔ crcPolyCore msb lsb ^^^ k = 0 := shift8_eq_zero_iff _
    _ ↔ crcPolyCore msb lsb = k := BitVec.xor_eq_zero_iff
    _ ↔ k = crcPolyCore msb lsb := eq_comm

theorem tripleValid_params_iff (msb lsb k : Byte) :
    tripleValid params (msb, lsb, k) = true ↔ crcPolyCore msb lsb = k := by
  rw [tripleValid, crc8_params, beq_iff_eq]

theorem tripleValid_params_eq_false_iff (msb lsb k : Byte) :
    tripleValid params (msb, lsb, k) = false ↔ crcPolyCore msb lsb ≠ k := by
  rw [← Bool.not_eq_true, tripleValid_params_iff]

/-- Settles O19: the residue, and the two look-ups evaluated at R124's two words. -/
theorem crcLaws : Obligations.CrcLaws := by
  refine ⟨crc8_params, fun msb lsb k => ?_, by decide, by decide, by decide⟩
  rw [crc8_params, crcPolyRun_triple_eq_zero_iff]

/-- Settles O20: with the other two bytes kept, the check fixes each byte of a triple. -/
theorem crcCatchesOneWrongByte : Obligations.CrcCatchesOneWrongByte := by
  intro m l k m' l' k' valid wrong
  rw [tripleValid_params_iff] at valid
  rw [tripleValid_params_eq_false_iff]
  obtain ⟨msb, rfl, rfl⟩ | ⟨rfl, lsb, rfl⟩ | ⟨rfl, rfl, crc⟩ := wrong
  · exact fun valid' => msb (crcPolyCore_msb_inj.1 (valid'.trans valid.symm))
  · exact fun valid' => lsb (crcPolyCore_lsb_inj.1 (valid'.trans valid.symm))
  · exact fun valid' => crc (valid'.symm.trans valid)

/-! ## The commands (R125, R126) -/

/-- RESULT is the byte, zero-extended. -/
theorem toNat_setResultByte_result (b : Byte) (s : State) : (setResultByte b s).result.toNat = b.toNat :=
  BitVec.toNat_setWidth_of_le (by decide)

theorem exec_of_effect {i : Instr} {s t : State} (effect : Effect params s i t) : exec i s = .next t :=
  (run_params i s).symm.trans (run_of_effect effect)

/-- Settles O21: the byte CRC8 writes is the polynomial core's. -/
theorem crc8Completes : Obligations.Crc8Completes := by
  intro msb lsb s
  refine ⟨_, exec_of_effect (.crc8 msb lsb), rfl, ?_⟩
  rw [complete_result, toNat_setResultByte_result, crc8_params]
  rfl

/-- Settles O22: RESULT as for CRC8, and MATCH compares it, as a number, with the received byte. -/
theorem crcchkCompletes : Obligations.CrcchkCompletes := by
  intro msb lsb crc s
  refine ⟨_, exec_of_effect (.crcchk msb lsb crc), rfl, ?_, ?_⟩
  · rw [complete_result, setMatch_result, toNat_setResultByte_result, crc8_params]
    rfl
  · rw [complete_result, setMatch_result, toNat_setResultByte_result, complete_matchBit, setMatch_matchBit, beq_iff_eq,
      BitVec.toNat_inj]

end Sys2Proof.Proofs.Crc
end

section
/-! PROOFS. The statements of the codec family: the accept steps of EXEC, READ and WRITE, and the steps of the transport
and of the environment that carry a command to its end. Each is assembled from the rule of one step in its phase; the Rx
step's outcome is read off the bytes of its response. -/

open Sys2Proof Sys2Proof.Machine Sys2Proof.Rule
open Sys2Proof.Proofs.Scope (params_legal nwLegal_eq_false runWrite_of_not_nwLegal runRead_of_not_nwLegal)
open Sys2Proof.Proofs.StateRules
open Sys2Proof.Proofs.Encoding (step_of_commandWrite_complete)
open Sys2Proof.Proofs.Crc (exec_of_effect)

namespace Sys2Proof.Proofs.Codec

/-! ## The accept steps (R141, R145, R151, R160, R170) -/

/-- R141: the hold latched in the block of R6 is SETTLE's, and 20 ms at least. -/
theorem loadLatches_params_lSettle_toNat (op : BitVec 4) (opc : Word) (nw : BitVec 6) (s : State) :
    (loadLatches params op opc nw s).lSettle.toNat = max s.settle.toNat 20 :=
  effectiveSettle_toNat (by decide) s.settle

/-- The two opcode bytes leave the rest of FRAME alone. -/
theorem loadLatches_frame_get_of_ge (p : Params) (op : BitVec 4) (opc : Word) (nw : BitVec 6) (s : State)
    (k : Fin frameCapacity) (past : 2 ≤ k.val) : (loadLatches p op opc nw s).frame.get k = s.frame.get k := by
  have byte := putFrame_getElem (opcodeBytes opc) 0 s.frame k.val k.isLt
  rw [if_neg fun ⟨_, inOpcode⟩ => not_lt.2 past (by simpa [opcodeBytes] using inOpcode)] at byte
  exact byte

/-- Settles O32: EXEC's effect, its frame of two bytes and what it leaves of FRAME. -/
theorem execCompletes : Obligations.ExecCompletes := by
  intro opc s
  exact ⟨_, exec_of_effect (.exec opc), rfl, loadLatches_params_lSettle_toNat opExec opc 0 s,
    txFrame_opcode params opExec opc 0 s, loadLatches_frame_get_of_ge params opExec opc 0 s⟩

/-- Settles O33: READ's effect for a count it runs is EXEC's, with the count latched. -/
theorem readCompletes : Obligations.ReadCompletes := by
  intro opc nw s one max
  have count : nwLegal params nw = true := (nwLegal_iff params nw).2 ⟨one, max⟩
  exact ⟨_, exec_of_effect (.read opc nw count), rfl, loadLatches_params_lSettle_toNat opRead opc nw s,
    txFrame_opcode params opRead opc nw s, loadLatches_frame_get_of_ge params opRead opc nw s⟩

/-- Settles O35: WRITE's effect for a count it runs, where its build has met a word that holds no value. -/
theorem writeOfUnwrittenDataFaults : Obligations.WriteOfUnwrittenDataFaults := by
  intro opc nw s one max unheld
  have count : nwLegal params nw = true := (nwLegal_iff params nw).2 ⟨one, max⟩
  exact ⟨_, exec_of_effect (.writeUnheld opc nw count unheld), rfl,
    loadLatches_params_lSettle_toNat opWrite opc nw s⟩

/-- Settles O36: the CMD write runs the command, whose length check fails before any latch is loaded. -/
theorem badWordCountNeverReachesTheBus : Obligations.BadWordCountNeverReachesTheBus := by
  intro opc nw i s es known bad write
  have bad : nwLegal params nw = false := nwLegal_eq_false bad
  refine step_of_commandWrite_complete write fun s => ?_
  rw [commandWrite_of_decode (decode_encode i)]
  obtain rfl | rfl := known
  · exact runWrite_of_not_nwLegal bad opc _
  · exact runRead_of_not_nwLegal bad opc _

/-! ## The scheduled steps of the transport and the environment (R255, R256) -/

section
variable {p : Params} {s : State} {es : List Event}

/-- In TX the transport's answer to a `BusWrite` is the Tx step. -/
theorem step_of_busWriteAnswer {ok : Bool} (tx : s.phase = .tx) (next : Next s (.busWriteAnswer ok) es) :
    step s = txStep ok { s with events := es } := by
  rw [step_of_event next.2]
  simp only [takeEvent, tx]

/-- In RX the transport's answer to a `BusRead` is the Rx step. -/
theorem step_of_busReadAnswer {answer : Option (List Byte)} (rx : s.phase = .rx)
    (next : Next s (.busReadAnswer answer) es) : step s = rxStep params answer { s with events := es } := by
  rw [step_of_event next.2]
  simp only [takeEvent, rx]

/-- In SETTLE the environment's step ends the hold of L_SETTLE. -/
theorem step_of_settleElapsed {ms : Nat} (settle : s.phase = .settle) (next : Next s (.settleElapsed ms) es) :
    step s = endHold s.lSettle.toNat ms (settleStep { s with events := es }) := by
  rw [step_of_event next.2]
  simp only [takeEvent, settle]

/-- In POST the environment's step ends the hold of `POST_READ_SETTLE_MS`. -/
theorem stepWith_of_postElapsed {ms : Nat} (post : s.phase = .post) (next : Next s (.settleElapsed ms) es) :
    stepWith p s = endHold p.postReadSettleMs ms (postStep { s with events := es }) := by
  rw [stepWith_of_event next.2]
  simp only [takeEvent, post]

end

theorem endHold_of_le {bound ms : Nat} (lasted : bound ≤ ms) (r : Result) : endHold bound ms r = r := if_pos lasted

theorem endHold_of_lt {bound ms : Nat} (early : ms < bound) (r : Result) :
    endHold bound ms r = .refused .holdNotElapsed := if_neg (not_le.2 early)

theorem settleStep_of_read {s : State} (op : s.lOp = opRead) : settleStep s = .next { s with phase := .rx } := if_pos op

theorem settleStep_of_not_read {s : State} (op : s.lOp ≠ opRead) : settleStep s = .next (complete .ok s) := if_neg op

/-- R161: the Rx step with the bytes it asked for. -/
theorem rxStep_of_length {p : Params} {r : List Byte} {s : State} (len : r.length = rxCount p s) :
    rxStep p (some r) s = .next (receive p r (issue (.busRead s.lAddr (rxCount p s)) s)) := if_pos len

/-- Settles O37: the Tx step with each of the transport's two answers. -/
theorem txStepSendsTheFrame : Obligations.TxStepSendsTheFrame := by
  intro s ok es tx next
  rw [step_of_busWriteAnswer tx next]
  cases ok with
  | true => exact ⟨_, rfl, rfl, rfl, fun _ => ⟨rfl, rfl⟩, nofun⟩
  | false => exact ⟨_, rfl, rfl, rfl, nofun, fun _ => ⟨rfl, rfl⟩⟩

/-- Settles O38: an early end is refused, and one that is not is the Settle step. -/
theorem settleStepEndsTheHold : Obligations.SettleStepEndsTheHold := by
  intro s ms es settle next
  rw [step_of_settleElapsed settle next]
  refine ⟨fun early => endHold_of_lt early _, fun lasted => ?_⟩
  rw [endHold_of_le lasted]
  exact ⟨fun read => settleStep_of_read (s := { s with events := es }) read,
    fun other => settleStep_of_not_read (s := { s with events := es }) other⟩

/-- Settles O51: the end is not early, and the hold latched is no shorter than the floor. -/
theorem noHoldEndsBeforeTheFloor : Obligations.NoHoldEndsBeforeTheFloor := by
  intro s t ms es inv settle next step
  rw [step_of_settleElapsed settle next] at step
  have latches := inv.latches (by rw [settle]; nofun)
  exact latches.settle.trans (endHold_next step).1

/-! ## What the Rx step leaves -/

section
variable (p : Params) (r : List Byte) (s : State)

theorem receive_phase : (receive p r s).phase = if 0 < p.postReadSettleMs then .post else .idle := by
  rw [receive_eq]

theorem receive_code : (receive p r s).code = if 0 < p.postReadSettleMs then s.code else validate p r := by
  rw [receive_eq]

theorem receive_lCode : (receive p r s).lCode = validate p r := by
  rw [receive_eq]

/-- Log 14: the block of R6 completes a READ in its Rx step. -/
theorem receive_params_phase : (receive params r s).phase = .idle := receive_phase params r s

theorem receive_params_code : (receive params r s).code = validate params r := receive_code params r s

end

/-- Settles O40: the Rx step's phase and code by the bound, and the end of the hold in POST. -/
theorem postHoldCompletesWithTheLatchedCode : Obligations.PostHoldCompletesWithTheLatchedCode := by
  refine ⟨fun p s r len => ?_, fun p s ms es post next => ?_⟩
  · refine ⟨_, rxStep_of_length len, receive_lCode .., fun hold => ?_, fun noHold => ?_⟩
    · rw [receive_phase, receive_code, if_pos hold, if_pos hold]
      exact ⟨rfl, rfl⟩
    · rw [receive_phase, receive_code, if_neg noHold.not_gt, if_neg noHold.not_gt]
      exact ⟨rfl, rfl⟩
  · rw [stepWith_of_postElapsed post next]
    exact ⟨fun lasted => endHold_of_le lasted _, fun early => endHold_of_lt early _⟩

/-! ## The outcome of a response (R162 to R166) -/

/-- R162: every byte is 0xFF. -/
theorem allOnes_iff (r : List Byte) : allOnes r = true ↔ ∀ b ∈ r, b = 0xFF := by
  simp [allOnes]

theorem not_allOnes_iff (r : List Byte) : ¬ allOnes r = true ↔ ∃ b ∈ r, b ≠ 0xFF := by
  simp [allOnes]

section
variable {r : List Byte} {n : Nat} (len : r.length = 3 * n)
include len

/-- R163: the triples of a response all check exactly when each of its words passes its CRC. -/
theorem all_tripleValid_iff : (triples r).all (tripleValid params) = true ↔ ∀ i, i < n → WordOk r i := by
  have count := triples_length n r len
  have word : ∀ i (h : i < n), tripleValid params (triples r)[i] = true ↔ WordOk r i := by
    intro i h
    have triple := triples_getElem? n r len i h
    rw [List.getElem?_eq_getElem (by omega), Option.some_inj] at triple
    rw [triple, tripleValid, beq_iff_eq]
    rfl
  simp only [List.all_eq_true, List.forall_mem_iff_forall_getElem, count]
  exact forall₂_congr word

/-- R165: the words of a response are its bytes, two of three, big-endian. -/
theorem frameWords_getElem? {i : Nat} (inFrame : i < n) :
    (frameWords r)[i]? = some (byte r (3 * i) ++ byte r (3 * i + 1)) := by
  rw [frameWords, List.getElem?_map, triples_getElem? n r len i inFrame]
  rfl

/-- R166: `Validate`'s three outcomes, the all-ones check first. -/
theorem validate_iff :
    (validate params r = .readUnavailable ↔ ∀ b ∈ r, b = 0xFF) ∧
    (validate params r = .crcMismatch ↔ (∃ b ∈ r, b ≠ 0xFF) ∧ ∃ i, i < n ∧ ¬ WordOk r i) ∧
    (validate params r = .ok ↔ (∃ b ∈ r, b ≠ 0xFF) ∧ ∀ i, i < n → WordOk r i) := by
  have someBad : (∃ i, i < n ∧ ¬ WordOk r i) ↔ ¬ (triples r).all (tripleValid params) = true := by
    simp only [all_tripleValid_iff len, not_forall, exists_prop]
  rw [someBad, ← allOnes_iff, ← not_allOnes_iff, ← all_tripleValid_iff len]
  unfold validate
  split
  · next ones => simp [ones]
  · next notOnes => split <;> next valid => simp [notOnes, valid]

end

/-- R165: a valid response commits its words from DATA[0] on and leaves every other word alone. -/
theorem dataWord?_receive_of_valid {p : Params} {r : List Byte} (valid : validate p r = .ok) (s : State) (i : Nat) :
    dataWord? (receive p r s) i =
      if i < (frameWords r).length ∧ i < dataCapacity then (frameWords r)[i]? else dataWord? s i := by
  rw [dataWord?_receive, if_pos valid, commit, dataWord?_writeDataFrom]
  simp

/-- R163, R222: a response that is not valid commits nothing. -/
theorem receive_keeps_data_of_not_valid {p : Params} {r : List Byte} (invalid : validate p r ≠ .ok) (s : State) :
    (receive p r s).data = s.data ∧ (receive p r s).dataValid = s.dataValid := by
  rw [receive_eq, if_neg invalid, if_neg invalid]
  exact ⟨rfl, rfl⟩

/-- What a response of `n` words leaves in DATA where its outcome is OK. -/
theorem dataWord?_receive_of_length {r : List Byte} {n : Nat} (len : r.length = 3 * n) (room : n ≤ dataCapacity)
    (valid : validate params r = .ok) (s : State) (i : Nat) :
    dataWord? (receive params r s) i =
      if i < n then some (byte r (3 * i) ++ byte r (3 * i + 1)) else dataWord? s i := by
  have words : (frameWords r).length = n := by rw [frameWords, List.length_map, triples_length n r len]
  rw [dataWord?_receive_of_valid valid, words]
  by_cases inFrame : i < n
  · rw [if_pos ⟨inFrame, by omega⟩, if_pos inFrame, frameWords_getElem? len inFrame]
  · rw [if_neg fun both => inFrame both.1, if_neg inFrame]

/-- Settles O39: a transport failure, and a response by its outcome. -/
theorem rxStepValidatesAndCommits : Obligations.RxStepValidatesAndCommits := by
  intro s answer es rx legal next asked
  obtain ⟨-, max⟩ := (nwLegal_iff params s.lNw).1 legal
  rw [step_of_busReadAnswer rx next]
  cases answer with
  | none => exact ⟨_, rfl, rfl, rfl, rfl, fun _ => rfl, nofun, fun _ => ⟨rfl, rfl⟩⟩
  | some r =>
    have len : r.length = 3 * s.lNw.toNat := asked r rfl
    obtain ⟨unavailable, mismatch, ok⟩ := validate_iff len
    refine ⟨_, rxStep_of_length len, receive_params_phase .., by rw [receive_eq]; rfl, by rw [receive_eq]; rfl,
      nofun, ?_, ?_⟩
    · rintro _ ⟨⟩
      rw [receive_params_code]
      exact ⟨unavailable, mismatch, ok,
        fun valid => dataWord?_receive_of_length len (max.trans (by decide)) valid _⟩
    · rw [receive_params_code]
      exact fun invalid => receive_keeps_data_of_not_valid invalid _

/-! ## A WRITE's payload as a response (R169) -/

theorem frameWords_wire (p : Params) (ws : List Word) : frameWords (ws.map (wireWord p)).flatten = ws := by
  simp [frameWords, triples_wire, Function.comp_def, wordOf_bytes]

theorem wire_tripleValid (p : Params) (ws : List Word) :
    (triples (ws.map (wireWord p)).flatten).all (tripleValid p) = true := by
  simp [triples_wire, tripleValid]

/-- R162: the word 0xFFFF has another CRC than 0xFF, so no word reads as all ones on the wire. -/
theorem allOnes_wireWord (w : Word) : allOnes (wireWord params w) = false := by
  rw [← Bool.not_eq_true, allOnes_iff]
  intro ones
  obtain ⟨msb, lsb, crc⟩ : msbOf w = 0xFF ∧ lsbOf w = 0xFF ∧ crc8 params (msbOf w) (lsbOf w) = 0xFF := by
    simpa [wireWord] using ones
  rw [msb, lsb] at crc
  exact absurd crc (by decide)

/-- A payload of at least one word is a valid response. -/
theorem validate_wire {ws : List Word} (nonempty : ws ≠ []) :
    validate params (ws.map (wireWord params)).flatten = .ok := by
  have notOnes : allOnes (ws.map (wireWord params)).flatten = false := by
    obtain ⟨w, rest, rfl⟩ := List.exists_cons_of_ne_nil nonempty
    have first := allOnes_wireWord w
    unfold allOnes at first ⊢
    rw [List.map_cons, List.flatten_cons, List.all_append, first, Bool.false_and]
  rw [validate, notOnes, wire_tripleValid]
  rfl

/-- Words that hold values are read from DATA in order. -/
theorem getElem?_take_data {s : State} {n i : Nat} (held : DataHeld s n) (inRange : i < n) :
    (s.data.toList.take n)[i]? = dataWord? s i := by
  obtain ⟨w, word⟩ := Option.isSome_iff_exists.1 (held i inRange)
  obtain ⟨room, -, rfl⟩ := (dataWord?_eq_some_iff s i w).1 word
  simp [word, inRange, room]

/-- Settles O41: what a WRITE sends past its opcode is a valid response, whose words are those written. -/
theorem writeThenReadRoundTrips : Obligations.WriteThenReadRoundTrips := by
  intro opc nw s t u es one max held ran rx same next
  have count : nwLegal params nw = true := (nwLegal_iff params nw).2 ⟨one, max⟩
  have room : nw.toNat ≤ dataCapacity := max.trans (by decide)
  obtain rfl : startTx _ (builtWrite params opc nw s) = t :=
    Host.Outcome.next.inj ((exec_of_effect (.write opc nw count held)).symm.trans ran)
  have payload : (txFrame (startTx (2 + params.wireBytes * nw.toNat) (builtWrite params opc nw s))).drop 2 =
      wireData params s nw.toNat := by
    rw [txFrame_write params_legal opc count held]; rfl
  rw [payload] at next
  have len : (wireData params s nw.toNat).length = 3 * nw.toNat := length_wireData params s room
  have words : (s.data.toList.take nw.toNat).length = nw.toNat := by simp [room]
  have valid : validate params (wireData params s nw.toNat) = .ok :=
    validate_wire (List.ne_nil_of_length_pos (by omega))
  refine ⟨_, (step_of_busReadAnswer rx next).trans (rxStep_of_length ?_), receive_params_phase .., ?_, fun i hi => ?_⟩
  · rw [len, rxCount_params, same]
  · rw [receive_params_code, valid]
  · rw [dataWord?_receive_of_valid valid, wireData, frameWords_wire, words, if_pos ⟨hi, by omega⟩,
      getElem?_take_data held hi]

/-! ## A running command with nothing scheduled (R256) -/

/-- How many steps of its own a command in this phase still takes at most, with no post hold (log 14). -/
def stepsLeft : Phase → Nat
  | .idle => 0
  | .rx | .post => 1
  | .settle => 2
  | .tx => 3

theorem stepsLeft_le_three (ph : Phase) : stepsLeft ph ≤ 3 := by cases ph <;> decide

theorem stepsLeft_eq_zero_iff (ph : Phase) : stepsLeft ph = 0 ↔ ph = .idle := by cases ph <;> decide

/-- R76: a drawn answer has as many bytes as were asked for. -/
theorem length_of_drawRead {n count : Nat} {r : List Byte} (drawn : drawRead n count = some r) : r.length = count := by
  unfold drawRead at drawn
  split at drawn <;> cases drawn
  simp

/-- Every unscheduled step is taken, brings a running command nearer its end and schedules nothing. -/
theorem freeStep_params_progress (s : State) :
    ∃ t, freeStep params s = .next t ∧ t.events = s.events ∧ stepsLeft t.phase ≤ stepsLeft s.phase - 1 := by
  unfold freeStep
  cases ph : s.phase with
  | idle => exact ⟨s, rfl, rfl, by rw [ph]; decide⟩
  | tx =>
    simp only
    cases Config.busWriteFails s.draws
    · exact ⟨_, rfl, rfl, by simp [stepsLeft]⟩
    · exact ⟨_, rfl, rfl, by simp [stepsLeft]⟩
  | settle =>
    by_cases op : s.lOp = opRead
    · exact ⟨_, settleStep_of_read op, rfl, by simp [stepsLeft]⟩
    · exact ⟨_, settleStep_of_not_read op, rfl, by simp [stepsLeft]⟩
  | rx =>
    simp only
    cases drawn : drawRead s.draws (rxCount params s) with
    | none => exact ⟨_, rfl, rfl, by simp [stepsLeft]⟩
    | some r =>
      refine ⟨_, rxStep_of_length (s := countDraw s) (length_of_drawRead drawn), by rw [receive_eq]; rfl, ?_⟩
      rw [receive_params_phase]
      decide
  | post => exact ⟨_, rfl, rfl, by simp [stepsLeft]⟩

/-- The same of a step of the system, which leaves the mark alone as well. -/
theorem step_progress {s : State} (free : s.events = []) (clear : s.fault = none) :
    ∃ t, step s = .next t ∧ t.events = [] ∧ t.fault = none ∧ stepsLeft t.phase ≤ stepsLeft s.phase - 1 := by
  obtain ⟨t, next, events, nearer⟩ := freeStep_params_progress s
  exact ⟨t, (step_of_free free).trans next, events.trans free, (Memory.freeStep_fault next).trans clear, nearer⟩

/-- Settles O50: a command has three steps left at most, and each step brings it nearer its end. -/
theorem unscheduledCommandEndsInThreeSteps : Obligations.UnscheduledCommandEndsInThreeSteps := by
  intro s clear free _
  obtain ⟨a, first, freeA, clearA, nearA⟩ := step_progress free clear
  obtain ⟨b, second, freeB, clearB, nearB⟩ := step_progress freeA clearA
  obtain ⟨t, third, -, clearT, nearT⟩ := step_progress freeB clearB
  have most := stepsLeft_le_three s.phase
  exact ⟨a, b, t, first, second, third, (stepsLeft_eq_zero_iff t.phase).1 (by omega), clearT⟩

end Sys2Proof.Proofs.Codec
end

section
/-! PROOFS. The statements of the measurement family. A word is a sentinel or a number; a number's numerator over DEN is
the rational of the rules because the machine rounds integer quotients as R10 rounds rationals, and it lies in R195's
bounds, so the 32-bit registers hold it exactly. -/

open Sys2Proof Sys2Proof.Machine Sys2Proof.Rule
open Sys2Proof.Proofs.Scope (machine_roundTies_eq_rule machine_roundToNearest_eq_rule)
open Sys2Proof.Proofs.StateRules (channelValue_bounds chan_bounds)
open Sys2Proof.Proofs.Crc (exec_of_effect)

namespace Sys2Proof.Proofs.Measure

/-! ## The channel table (R180 to R182) -/

theorem denOf_eq_den (ch : Channel) (m : RMode) : denOf ch m = den ch m := by
  cases m <;> cases ch <;> rfl

theorem scaleOf_eq_scale (ch : Channel) : (scaleOf ch : ℚ) = scale ch := by
  cases ch <;> simp [scaleOf, scale, channelNumber]

/-- R182: RAW delivers over the scale factor itself. -/
theorem den_raw_eq_scale (ch : Channel) : (den ch .raw : ℚ) = scale ch := by
  rw [← denOf_eq_den]
  exact scaleOf_eq_scale ch

theorem channelSigned_iff (ch : Channel) : channelSigned ch = true ↔ ¬ channelNumber ch ≤ 3 := by
  cases ch <;> decide

/-- R181: the machine reads a word as the channel's signedness says. -/
theorem channelValue_eq_value (ch : Channel) (w : Word) : channelValue ch w = value ch w := by
  simp only [channelValue, value, channelSigned_iff, ite_not, s16_eq_toInt, u16]

/-! ## Sentinels and numbers (R183, R184, R193, R194) -/

theorem chan_of_sentinel {w : Word} (sentinel : Sentinel w) (ties : RoundTies) (ch : Channel) (m : RMode) :
    chan ties ch w m = (true, 0) :=
  if_pos ((isSentinel_iff w).2 sentinel)

theorem chan_of_not_sentinel {w : Word} (number : ¬ Sentinel w) (ties : RoundTies) (ch : Channel) (m : RMode) :
    chan ties ch w m = (false, numeratorOf ties ch (value ch w) m) := by
  rw [← channelValue_eq_value]
  exact if_neg (mt (isSentinel_iff w).1 number)

theorem chan_unknown_iff (ties : RoundTies) (ch : Channel) (w : Word) (m : RMode) :
    (chan ties ch w m).1 = true ↔ Sentinel w := by
  by_cases sentinel : Sentinel w
  · simp [chan_of_sentinel sentinel, sentinel]
  · simp [chan_of_not_sentinel sentinel, sentinel]

/-- Settles O25: the flag is the sentinel test, and a sentinel's numerator is 0. -/
theorem unknownExactlyForTheSentinels : Obligations.UnknownExactlyForTheSentinels := by
  intro ties ch w m
  refine ⟨chan_unknown_iff ties ch w m, fun unknown => ?_⟩
  rw [chan_of_sentinel ((chan_unknown_iff ties ch w m).1 unknown)]

/-! ## The exact rational (R185 to R191) -/

/-- R186: the comparison on the integer is the one on the scaled value. -/
theorem div_ten_lt_hundred_iff (x : ℤ) : (x : ℚ) / 10 < 100 ↔ x < 1000 := by
  rw [div_lt_iff₀ (by norm_num), ← Int.cast_lt (R := ℚ)]
  norm_num

/-- R186 to R189, R191: the numerator in METRIC, over its DEN, is the rounded rational. -/
theorem displayMetric_div_den (ties : RoundTies) (ch : Channel) (w : Word) :
    (displayMetric ties ch (value ch w) : ℚ) / den ch .metric = delivered ties ch w .metric := by
  have near := fun s n => machine_roundToNearest_eq_rule ties (value ch w) (q := s) (n := n)
  cases ch with
  | pm1 | pm2p5 =>
    have fine := near 10 5 (by decide) (by decide)
    have coarse := near 10 10 (by decide) (by decide)
    simp only [displayMetric, delivered, den, scale, channelNumber, List.getD_cons_zero, List.getD_cons_succ,
      div_ten_lt_hundred_iff, Nat.cast_one, div_one]
    split
    · exact fine
    · exact coarse
  | pm4 | pm10 => exact (div_one _).trans (near 10 25 (by decide) (by decide))
  | rh => exact (div_one _).trans (near 100 5 (by decide) (by decide))
  | voc | nox =>
    refine (div_one _).trans ((near 10 1 (by decide) (by decide)).trans ?_)
    rw [Rule.roundToNearest, Nat.cast_one, div_one, mul_one]
    rfl
  | t =>
    have halves : (value .t w : ℚ) / 200 / (1 / 2) = value .t w / (100 : ℕ) := by push_cast; ring
    calc (Machine.roundTies ties (value .t w) 100 : ℚ) / 2
      _ = Rule.roundTies ties ((value .t w : ℚ) / 200 / (1 / 2)) * (1 / 2) := by
        rw [halves, ← machine_roundTies_eq_rule ties _ (by decide)]
        ring

/-- R190: the numerator in IMPERIAL is METRIC's but for temperature, which is converted before it is rounded. -/
theorem displayImperial_div_den (ties : RoundTies) (ch : Channel) (w : Word) :
    (displayImperial ties ch (value ch w) : ℚ) / den ch .imperial = delivered ties ch w .imperial := by
  have metric := displayMetric_div_den ties ch w
  cases ch with
  | pm1 | pm2p5 | pm4 | pm10 | rh | voc | nox => exact metric
  | t =>
    have fahrenheit : (value .t w : ℚ) / 200 * 9 / 5 + 32 = ((9 * value .t w + 32000 : ℤ) : ℚ) / (1000 : ℕ) := by
      push_cast
      ring
    calc (Machine.roundTies ties (9 * value .t w + 32000) 1000 : ℚ) / (1 : ℕ)
      _ = Rule.roundTies ties ((value .t w : ℚ) / 200 * 9 / 5 + 32) := by
        rw [fahrenheit, machine_roundTies_eq_rule ties _ (by decide), Nat.cast_one, div_one]

theorem numeratorOf_div_den (ties : RoundTies) (ch : Channel) (w : Word) (m : RMode) :
    (numeratorOf ties ch (value ch w) m : ℚ) / den ch m = delivered ties ch w m := by
  cases m with
  | raw => exact congrArg _ (den_raw_eq_scale ch)
  | metric => exact displayMetric_div_den ties ch w
  | imperial => exact displayImperial_div_den ties ch w

/-- What a number delivers over DEN (R194). -/
theorem chan_div_den {w : Word} (number : ¬ Sentinel w) (ties : RoundTies) (ch : Channel) (m : RMode) :
    ((chan ties ch w m).2 : ℚ) / den ch m = delivered ties ch w m := by
  rw [chan_of_not_sentinel number]
  exact numeratorOf_div_den ties ch w m

/-- Settles O24: the channel table, a sentinel, and a number's numerator over DEN. -/
theorem chanDeliversTheExactRational : Obligations.ChanDeliversTheExactRational := by
  intro ties ch w m
  refine ⟨denOf_eq_den ch m, scaleOf_eq_scale ch, fun sentinel => chan_of_sentinel sentinel ties ch m,
    fun number => ⟨?_, chan_div_den number ties ch m⟩⟩
  rw [chan_of_not_sentinel number]

/-! ## The bounds of a numerator (R195) -/

/-- A register takes a numerator of R195 as it is. -/
theorem toInt_ofInt_chan (ties : RoundTies) (ch : Channel) (w : Word) (m : RMode) :
    (BitVec.ofInt 32 (chan ties ch w m).2).toInt = (chan ties ch w m).2 := by
  obtain ⟨low, high⟩ := chan_bounds ties ch w m
  exact BitVec.toInt_ofInt_eq_self (by decide) (by omega) (by omega)

/-- R195, RAW: the pattern 0x7FFF is no number, so a signed number ends one short of its word's range. -/
theorem value_inRange {w : Word} (number : ¬ Sentinel w) (ch : Channel) : InRange ch .raw (value ch w) := by
  have bounds := channelValue_bounds ch (Bool.eq_false_iff.2 (mt (isSentinel_iff w).1 number))
  simp only [channelSigned_iff, ite_not, channelValue_eq_value] at bounds
  simp only [InRange]
  split at bounds
  · next unsigned =>
    rw [if_pos unsigned]
    exact bounds
  · next signed =>
    have notMax : value ch w ≠ 32767 := by
      rw [value, if_neg signed]
      exact fun max => number (.inl (BitVec.eq_of_toInt_eq max))
    rw [if_neg signed]
    omega

/-- Rounding to a step lands between multiples of the step that lie half a step around the value. -/
theorem roundToNearest_bounds (ties : RoundTies) (x : ℤ) (s n : Nat) (a b : ℤ) (pos : 0 < s * n)
    (low : (2 * a - 1) * (s * n : ℕ) < 2 * x) (high : 2 * x < (2 * b + 1) * (s * n : ℕ)) :
    a * n ≤ Machine.roundToNearest ties x s n ∧ Machine.roundToNearest ties x s n ≤ b * n := by
  obtain ⟨above, below⟩ := roundTies_bounds ties x (s * n) a b pos low high
  exact ⟨Int.mul_le_mul_of_nonneg_right above (by omega), Int.mul_le_mul_of_nonneg_right below (by omega)⟩

theorem displayMetric_inRange (ties : RoundTies) (ch : Channel) {x : ℤ} (inRaw : InRange ch .raw x) :
    InRange ch .metric (displayMetric ties ch x) := by
  have near := roundToNearest_bounds ties x
  cases ch with
  | pm1 | pm2p5 =>
    obtain ⟨low, high⟩ := inRaw
    simp only [InRange, displayMetric]
    split
    · have := near 10 5 0 20 (by decide) (by omega) (by omega)
      omega
    · have := near 10 10 0 655 (by decide) (by omega) (by omega)
      omega
  | pm4 | pm10 =>
    obtain ⟨low, high⟩ := inRaw
    exact near 10 25 0 262 (by decide) (by omega) (by omega)
  | rh =>
    obtain ⟨low, high⟩ := inRaw
    exact near 100 5 (-66) 66 (by decide) (by omega) (by omega)
  | voc | nox =>
    obtain ⟨low, high⟩ := inRaw
    exact near 10 1 (-3277) 3277 (by decide) (by omega) (by omega)
  | t =>
    obtain ⟨low, high⟩ := inRaw
    exact roundTies_bounds ties x 100 (-328) 328 (by decide) (by omega) (by omega)

theorem displayImperial_inRange (ties : RoundTies) (ch : Channel) {x : ℤ} (inRaw : InRange ch .raw x) :
    InRange ch .imperial (displayImperial ties ch x) := by
  have metric := displayMetric_inRange ties ch inRaw
  cases ch with
  | pm1 | pm2p5 | pm4 | pm10 | rh | voc | nox => exact metric
  | t =>
    obtain ⟨low, high⟩ := inRaw
    exact roundTies_bounds ties (9 * x + 32000) 1000 (-263) 327 (by decide) (by omega) (by omega)

theorem numeratorOf_inRange (ties : RoundTies) (ch : Channel) {x : ℤ} (inRaw : InRange ch .raw x) (m : RMode) :
    InRange ch m (numeratorOf ties ch x m) := by
  cases m with
  | raw => exact inRaw
  | metric => exact displayMetric_inRange ties ch inRaw
  | imperial => exact displayImperial_inRange ties ch inRaw

/-- Settles O26: a number's value is in the range of RAW, and every rounding keeps its mode's range. -/
theorem numeratorsFitTheirRegisters : Obligations.NumeratorsFitTheirRegisters := by
  intro ties ch w m number
  refine ⟨?_, toInt_ofInt_chan ties ch w m⟩
  rw [chan_of_not_sentinel number]
  exact numeratorOf_inRange ties ch (value_inRange number ch) m

/-! ## SENT, SCALE and ROUND (R200 to R202) -/

/-- Settles O27: SENT's effect, with the sentinel test in UNKNOWN. -/
theorem sentCompletes : Obligations.SentCompletes := by
  intro raw s
  exact ⟨_, exec_of_effect (.sent raw), rfl, isSentinel_iff raw⟩

section
variable (p : Params) (ch : Channel) (raw : Word) (m : RMode) (s : State)

theorem convert_den_toNat : (convert p ch raw m s).den.toNat = den ch m := by
  have den_eq : (convert p ch raw m s).den = BitVec.ofNat 32 (denOf ch m) := rfl
  rw [den_eq, denOf_eq_den, BitVec.toNat_ofNat]
  cases m <;> cases ch <;> rfl

theorem convert_unknown_iff : (convert p ch raw m s).unknown = true ↔ Sentinel raw :=
  chan_unknown_iff p.roundTies ch raw m

theorem convert_result_toInt : (convert p ch raw m s).result.toInt = (chan p.roundTies ch raw m).2 :=
  toInt_ofInt_chan p.roundTies ch raw m

theorem convert_result_of_sentinel (sentinel : Sentinel raw) : (convert p ch raw m s).result = 0 := by
  refine BitVec.eq_of_toInt_eq ((convert_result_toInt p ch raw m s).trans ?_)
  rw [chan_of_sentinel sentinel]
  rfl

end

/-- Settles O28: SCALE's effect is the conversion in RAW, whose numerator is the word's value. -/
theorem scaleCompletes : Obligations.ScaleCompletes := by
  intro ch raw s
  refine ⟨_, exec_of_effect (.scale ch raw), rfl, ?_, convert_unknown_iff params ch raw .raw s,
    convert_result_of_sentinel params ch raw .raw s, fun number => ?_⟩
  · rw [convert_den_toNat, den_raw_eq_scale]
  · rw [convert_result_toInt, chan_of_not_sentinel number]
    rfl

/-- Settles O29: ROUND's effect is the conversion in its mode. -/
theorem roundCompletes : Obligations.RoundCompletes := by
  intro ch raw m i s form
  have effect : exec i s = .next (convert params ch raw m s) := by
    obtain ⟨rfl, rfl⟩ | ⟨rfl, rfl⟩ := form
    · exact exec_of_effect (.roundMetric ch raw)
    · exact exec_of_effect (.roundImperial ch raw)
  refine ⟨_, effect, rfl, convert_den_toNat params ch raw m s, convert_unknown_iff params ch raw m s,
    convert_result_of_sentinel params ch raw m s, fun number => ?_⟩
  rw [convert_result_toInt, convert_den_toNat]
  exact chan_div_den number .even ch m

/-! ## DECODE (R205) -/

theorem readingValid_params_iff (s : State) : readingValid params s = true ↔ DataHeld s 8 :=
  readingValid_iff params s

/-- A channel's lane is `Chan` of the word it holds. -/
theorem lane_of_dataWord? {s : State} {ch : Channel} {w : Word} (word : dataWord? s (channelNumber ch) = some w)
    (p : Params) (m : RMode) : lane p s m ch = chan p.roundTies ch w m := by
  obtain ⟨_, -, same⟩ := (dataWord?_eq_some_iff ..).1 word
  exact congrArg (chan p.roundTies ch · m) same

/-- In the block of R6 a decode's mask has each channel's flag. -/
theorem decodeReading_params_unkMask_bit (m : RMode) (s : State) (ch : Channel) :
    (decodeReading params m s).unkMask.getLsbD (channelNumber ch) = (lane params s m ch).1 := by
  rw [decodeReading_unkMask, maskOf_bit, laneUnknown_of_eight rfl]

/-- In the block of R6 each OUT is its channel's numerator. -/
theorem decodeReading_params_out_get (m : RMode) (s : State) (ch : Channel) :
    (decodeReading params m s).out.get (outIndex ch) = BitVec.ofInt 32 (lane params s m ch).2 := by
  rw [outIndex, decodeReading_out_get, laneOut_of_eight rfl]

/-- A decode's UNKNOWN says whether its mask has a bit. -/
theorem decodeReading_unknown_iff (p : Params) (m : RMode) (s : State) : (decodeReading p m s).unknown = true ↔
    ∃ ch, (decodeReading p m s).unkMask.getLsbD (channelNumber ch) = true := by
  simp only [decodeReading_unknown, decodeReading_unkMask, maskOf_ne_zero_iff, maskOf_bit]

/-- Settles O30: the effect of a DECODE whose words hold values, lane by lane. -/
theorem decodeCompletes : Obligations.DecodeCompletes := by
  intro m s held
  refine ⟨_, exec_of_effect (.decode m ((readingValid_params_iff s).2 held)), rfl, fun ch w word => ?_,
    decodeReading_unknown_iff params m s⟩
  simp only [complete_unkMask, complete_out, decodeReading_params_unkMask_bit, decodeReading_params_out_get,
    lane_of_dataWord? word]
  refine ⟨chan_unknown_iff _ ch w m, fun sentinel => ?_, fun number => ?_⟩
  · rw [chan_of_sentinel sentinel]
    rfl
  · rw [toInt_ofInt_chan]
    exact chan_div_den number .even ch m

/-- Settles O31: the effect of a DECODE that needs a word with no value is the mark alone. -/
theorem decodeOfUnwrittenDataFaults : Obligations.DecodeOfUnwrittenDataFaults := by
  intro m s unheld
  exact exec_of_effect (.decodeUnheld m (Bool.eq_false_iff.2 (mt (readingValid_params_iff s).1 unheld)))

end Sys2Proof.Proofs.Measure
end

section
/-! PROOFS. The statement of the exceptions family (R222). A step that writes a result ends its command with OK or goes
into the POST hold; this block's hold is empty (log 14), so over a whole course no result changes before the end. -/

open Sys2Proof Sys2Proof.Machine Sys2Proof.Rule
open Sys2Proof.Proofs.StateRules
open Sys2Proof.Proofs.Memory (move_keeps_results)
open Sys2Proof.Proofs.Codec (receive_phase receive_code receive_params_phase receive_keeps_data_of_not_valid)

namespace Sys2Proof.Proofs.Exceptions

/-! ## Who writes a result -/

theorem sameResults_trans {s t u : State} (first : SameResults s t) (second : SameResults t u) : SameResults s u :=
  ⟨second.data.trans first.data, second.dataValid.trans first.dataValid, second.result.trans first.result,
    second.den.trans first.den, second.out.trans first.out, second.unkMask.trans first.unkMask⟩

/-- A command has ended with OK. -/
def EndedOk (t : State) : Prop := t.phase = .idle ∧ t.code = .ok

/-- The Rx step commits words only with the outcome OK, which it completes with or takes into the hold (R161, R165). -/
theorem receive_keeps_results_or_commits {p : Params} {s t : State} (rx : s.phase = .rx) {r : List Byte}
    (len : r.length = rxCount p s) (received : t = receive p r (issue (.busRead s.lAddr (rxCount p s)) s)) :
    SameResults s t ∨ t.phase = .post ∨ EndedOk t := by
  subst received
  by_cases hold : 0 < p.postReadSettleMs
  · exact .inr (.inl ((receive_phase ..).trans (if_pos hold)))
  by_cases valid : validate p r = .ok
  · exact .inr (.inr ⟨(receive_phase ..).trans (if_neg hold), (receive_code ..).trans ((if_neg hold).trans valid)⟩)
  · obtain ⟨result, den, out, unkMask, -⟩ := move_keeps_results (.received rx r len) (by rw [rx]; nofun)
    obtain ⟨data, dataValid⟩ := receive_keeps_data_of_not_valid valid (issue (.busRead s.lAddr (rxCount p s)) s)
    exact .inl ⟨data, dataValid, result, den, out, unkMask⟩

/-- A move of a busy block writes a result only where it goes into the hold or ends the command with OK. -/
theorem move_keeps_results_or_commits {p : Params} {s t : State} (move : Move p s t) (running : s.phase ≠ .idle) :
    SameResults s t ∨ t.phase = .post ∨ EndedOk t := by
  cases move with
  | store _ _ _ _ idle | illegal _ _ _ idle | command _ _ _ idle => exact absurd idle running
  | received rx r len => exact receive_keeps_results_or_commits rx len rfl
  | stay | raise | read | sent | sendFailed | await | settled | readFailed | posted =>
    exact .inl ⟨rfl, rfl, rfl, rfl, rfl, rfl⟩

/-- A command's accept step writes a result only where it ends the command with OK. -/
theorem effect_keeps_results_or_completes {p : Params} {i : Instr} {s t : State} (h : Effect p s i t) :
    SameResults s t ∨ EndedOk t := by
  cases h with
  | crc8 | crcchk | sent | scale | roundMetric | roundImperial | decode => exact .inr ⟨rfl, rfl⟩
  | decodeUnheld | exec | read | write | writeUnheld | badRead | badWrite =>
    exact .inl ⟨rfl, rfl, rfl, rfl, rfl, rfl⟩

/-! ## No hold in this block (log 14) -/

theorem effect_phase_ne_post {p : Params} {i : Instr} {s t : State} (h : Effect p s i t) (idle : s.phase = .idle) :
    t.phase ≠ .post := by
  cases h with
  | decodeUnheld | writeUnheld => exact fun post => nomatch idle.symm.trans post
  | crc8 | crcchk | sent | scale | roundMetric | roundImperial | decode | exec | read | write | badRead | badWrite =>
    nofun

theorem move_params_phase_ne_post {s t : State} (move : Move params s t) (before : s.phase ≠ .post) :
    t.phase ≠ .post := by
  cases move with
  | received _ r => rw [receive_params_phase]; nofun
  | command c i _ idle _ run => exact effect_phase_ne_post (run_effect run) idle
  | store reg v => rwa [writeReg_phase]
  | stay | raise | read => exact before
  | illegal | sent | sendFailed | await | settled | readFailed => nofun
  | posted post => exact absurd post before

/-! ## The course of a command -/

/-- What holds all along the course of the command word `c` written in state `s`: no hold is entered, CMD holds the
word, and no result has changed unless the command has ended with OK. -/
structure OnCourse (s : State) (c : Reg) (t : State) : Prop where
  noHold : t.phase ≠ .post
  cmd : t.cmd = c
  results : SameResults s t ∨ EndedOk t

/-- A step of a busy block keeps CMD, and a result unless it goes into the hold or ends the command with OK. -/
theorem step_keeps_cmd_and_results_or_commits {s t : State} (running : s.phase ≠ .idle) (h : step s = .next t) :
    t.cmd = s.cmd ∧ (SameResults s t ∨ t.phase = .post ∨ EndedOk t) := by
  obtain ⟨n, move⟩ := step_move_from h
  have taken : SameResults s { s with events := s.events.tail, draws := n } := ⟨rfl, rfl, rfl, rfl, rfl, rfl⟩
  exact ⟨(move_keeps_latches move running).1.cmd,
    (move_keeps_results_or_commits move running).imp_left (sameResults_trans taken)⟩

/-- The step of a CMD write to an idle block is the whole of R100. -/
theorem step_of_cmdWrite {s : State} {c : Reg} {es : List Event} (write : CmdWrite s c es) :
    step s = commandWrite params c { s with events := es } := by
  obtain ⟨⟨-, scheduled⟩, idle⟩ := write
  exact (step_of_event scheduled).trans (hostWrite_cmd_of_idle (s := { s with events := es }) idle c)

theorem onCourse_of_cmdWrite {s t : State} {c : Reg} {es : List Event} (write : CmdWrite s c es)
    (h : step s = .next t) : OnCourse s c t := by
  rw [step_of_cmdWrite write] at h
  obtain ⟨-, -, rfl⟩ | ⟨i, -, run⟩ := commandWrite_cases c _ t h
  · exact ⟨nofun, rfl, .inl ⟨rfl, rfl, rfl, rfl, rfl, rfl⟩⟩
  · have effect := run_effect run
    obtain ⟨cmd, -⟩ := effect.untouched
    have accepted : SameResults s (acceptWord c { s with events := es }) := ⟨rfl, rfl, rfl, rfl, rfl, rfl⟩
    exact ⟨effect_phase_ne_post effect write.2, cmd,
      (effect_keeps_results_or_completes effect).imp_left (sameResults_trans accepted)⟩

theorem onCourse_step {s t u : State} {c : Reg} (before : OnCourse s c t) (running : t.phase ≠ .idle)
    (h : step t = .next u) : OnCourse s c u := by
  obtain ⟨cmd, kept⟩ := step_keeps_cmd_and_results_or_commits running h
  obtain ⟨_, move⟩ := step_move_from h
  have noHold : u.phase ≠ .post := move_params_phase_ne_post move before.noHold
  have sofar : SameResults s t := before.results.resolve_right fun ended => running ended.1
  refine ⟨noHold, cmd.trans before.cmd, ?_⟩
  obtain same | post | ended := kept
  · exact .inl (sameResults_trans sofar same)
  · exact absurd post noHold
  · exact .inr ended

theorem onCourse_of_course {s t : State} {c : Reg} {es : List Event} (write : CmdWrite s c es) (course : Course s t) :
    OnCourse s c t := by
  induction course with
  | accepted first => exact onCourse_of_cmdWrite write first
  | goesOn _ running then_ ih => exact onCourse_step ih running then_

/-- Settles O45: the step that ends a running command, and the course from its CMD write, of which the CMD write alone is
the shortest. -/
theorem failedCommandsChangeNoResults : Obligations.FailedCommandsChangeNoResults := by
  have onCourse : ∀ (s t : State) (c : Reg) (es : List Event), CmdWrite s c es → Course s t →
      (t.phase ≠ .idle ∧ t.phase ≠ .post) ∨ (t.phase = .idle ∧ t.code ≠ .ok) → SameResults s t ∧ t.cmd = c := by
    intro s t c es write course unfinished
    obtain ⟨-, cmd, results⟩ := onCourse_of_course write course
    refine ⟨results.resolve_right fun ⟨idle, ok⟩ => ?_, cmd⟩
    obtain ⟨running, -⟩ | ⟨-, failed⟩ := unfinished
    · exact running idle
    · exact failed ok
  refine ⟨fun s t h idle failed => ⟨fun running => ?_, fun c es write => ?_⟩, onCourse⟩
  · obtain ⟨cmd, same | post | ⟨-, ok⟩⟩ := step_keeps_cmd_and_results_or_commits running h
    · exact ⟨same, cmd⟩
    · exact nomatch idle.symm.trans post
    · exact absurd ok failed
  · exact onCourse s t c es write (.accepted h) (.inr ⟨idle, failed⟩)

end Sys2Proof.Proofs.Exceptions
end

section
/-! PROOFS. The statements of the reset and hazards family: the values of reset (R250), and the phases that enable a step
of the transport or of the environment (R255). -/

open Sys2Proof Sys2Proof.Machine Sys2Proof.Rule

namespace Sys2Proof.Proofs.ResetAndHazards

/-! ## The values of reset (R250, R251) -/

theorem resetWith_out_get (p : Params) (i : Fin channelCapacity) : (State.resetWith p).out.get i = 0 :=
  Vector.getElem_replicate i.isLt

theorem resetWith_dataWord? (p : Params) (i : Nat) : dataWord? (State.resetWith p) i = none := by
  refine Option.eq_none_iff_forall_ne_some.2 fun w word => ?_
  obtain ⟨room, valid, -⟩ := (dataWord?_eq_some_iff _ i w).1 word
  exact Bool.false_ne_true ((Vector.getElem_replicate room).symm.trans valid)

/-- R29: IDLE is not BUSY, and PHASE, CODE, MATCH and UNKNOWN are clear. -/
theorem resetInput_statusWord (s : State) (es : List Event) : statusWord (resetInput params s es) = 0 :=
  calc statusWord (resetInput params s es)
    _ = statusWord State.reset := rfl
    _ = 0 := by decide

/-- Settles O6: the registers are the reset state's fields, no channel has an output and no DATA word is valid. -/
theorem resetInputLeavesTheStatedValues : Obligations.ResetInputLeavesTheStatedValues := by
  intro s es
  have out : ∀ i, (resetInput params s es).out.get i = 0 := resetWith_out_get params
  have words : ∀ i, dataWord? (resetInput params s es) i = none := fun i =>
    (dataWord?_congr rfl rfl i).trans (resetWith_dataWord? params i)
  exact ⟨rfl, resetInput_statusWord s es, rfl, rfl, rfl, rfl, rfl, rfl, rfl, out, words, rfl, rfl⟩

/-! ## The phases that enable no step (R255, log 5) -/

section
variable {p : Params} {s : State}

theorem takeEvent_busWriteAnswer_of_ne_tx (other : s.phase ≠ .tx) (ok : Bool) :
    takeEvent p (.busWriteAnswer ok) s = .refused .stepNotEnabled := by
  simp only [takeEvent]
  split
  · next tx => exact absurd tx other
  all_goals rfl

theorem takeEvent_busReadAnswer_of_ne_rx (other : s.phase ≠ .rx) (answer : Option (List Byte)) :
    takeEvent p (.busReadAnswer answer) s = .refused .stepNotEnabled := by
  simp only [takeEvent]
  split
  · next rx => exact absurd rx other
  all_goals rfl

theorem takeEvent_settleElapsed_of_no_hold (notSettle : s.phase ≠ .settle) (notPost : s.phase ≠ .post) (ms : Nat) :
    takeEvent p (.settleElapsed ms) s = .refused .stepNotEnabled := by
  simp only [takeEvent]
  split
  · next settle => exact absurd settle notSettle
  · next post => exact absurd post notPost
  all_goals rfl

end

/-- Settles O42: the step takes the scheduled input, which the phase refuses. -/
theorem stepsAreEnabledOnlyInTheirPhase : Obligations.StepsAreEnabledOnlyInTheirPhase := by
  intro s es
  refine ⟨fun ok other next => ?_, fun answer other next => ?_, fun ms notSettle notPost next => ?_⟩
  all_goals rw [step_of_event next.2]
  · exact takeEvent_busWriteAnswer_of_ne_tx (s := { s with events := es }) other ok
  · exact takeEvent_busReadAnswer_of_ne_rx (s := { s with events := es }) other answer
  · exact takeEvent_settleElapsed_of_no_hold (s := { s with events := es }) notSettle notPost ms

end Sys2Proof.Proofs.ResetAndHazards
end
